-- ==== Sys2Proof/Word.lean ====
section
/-! DEFINITION. The two word types of RCL-BSE: the byte every buffer moves (20_memory.md R66) and the
32-bit word of every operand and result, which has room for every value register (10_state.md R22 to R29, 30_encoding.md R90). -/

namespace Sys2Proof

/-- One byte of `SRC` or `OUT`; bit 7 is the most significant (R8). -/
abbrev Byte := BitVec 8

/-- A word of the command interface: 32 bits (30_encoding.md R90). A value register has the low `VAL_BITS` of them (00_scope.md R7; 32 by default, as the
tables of 10_state.md R22 to R29 give it): `Config.fit`. -/
abbrev Word := BitVec 32

end Sys2Proof
end

