-- ==== Sys2Proof/Config.lean ====
section
/-! DEFINITION. What is fixed for one instance of the engine (10_state.md R21): the shape of the
parameters of 00_scope.md R6 and R7, the codec and fault names, and the free values, which have no body.
The parameters' defaults are in Machine/Params.lean. -/

namespace Sys2Proof

/-- The eight codecs, in the order of the `CODEC` codes (10_state.md R33). -/
inductive Codec where
  | mdkRle | lzf | pletter | dan1 | dan3 | zx7 | zx0 | bitBuster
  deriving DecidableEq, Repr

/-- The fault kinds of 60_exceptions.md R400, in code order 1 to 8. -/
inductive ErrKind where
  | inputTooLarge        -- 1
  | truncatedStream      -- 2
  | invalidHeader        -- 3
  | invalidBackReference -- 4
  | invalidQValue        -- 5
  | roundTripMismatch    -- 6, never raised (R413)
  | malformedToken       -- 7
  | outputOverflow       -- 8
  deriving DecidableEq, Repr

/-- `DAN3_PREFIX` (R7): the prefix code of each offset tier, first bit first. -/
structure Dan3Prefix where
  tierA : List Bool
  tierB : List Bool
  tierC : List Bool
  deriving DecidableEq, Repr

/-- `WIDE_SPLIT` (R7): how an offset field wider than 8 bits is carried. The spec names one value. -/
inductive WideSplit where
  /-- the bits above the low 8 in the bit stream, then the low 8 as a payload byte -/
  | bitsThenByte
  deriving DecidableEq, Repr

/-- The parameters of one instance (00_scope.md R7, 93_implementation_defined.md part 2). -/
structure Config where
  /-- `SRC_CAP`, capacity of `SRC` in bytes -/
  srcCap : Word
  /-- `OUT_CAP`, capacity of `OUT` in bytes -/
  outCap : Word
  /-- `MAXINPUT[MDK_RLE]` -/
  maxInputMdk : Word
  /-- `MAXINPUT[LZF]` -/
  maxInputLzf : Word
  /-- `MAXINPUT[PLETTER]` -/
  maxInputPletter : Word
  /-- `MAXINPUT[DAN1]` -/
  maxInputDan1 : Word
  /-- `MAXINPUT[DAN3]` -/
  maxInputDan3 : Word
  /-- `MAXINPUT[ZX7]` -/
  maxInputZx7 : Word
  /-- `MAXINPUT[ZX0]` -/
  maxInputZx0 : Word
  /-- `VAL_BITS`, the width of every value, length, offset and index register (R7, R9), which a value of the gamma readers has to fit (R107, R169; notes/assumptions/4.md) -/
  valBits : Nat
  /-- `NIL`, the empty-chain marker of `HEAD` and `PREV` -/
  nil : Word
  /-- `IG_CONT`, the "more bits follow" tag when `backwards` is clear -/
  igCont : Bool
  /-- `DAN3_ZERO_LIMIT` -/
  dan3ZeroLimit : Nat
  /-- `PLETTER_SENTINEL` -/
  pletterSentinel : Word
  /-- `DAN1_SEL_FAR`, the selector bit that takes the farther tier -/
  dan1SelFar : Bool
  dan3Prefix : Dan3Prefix
  wideSplit : WideSplit
  /-- `ZX0_INITIAL_OFFSET` -/
  zx0InitialOffset : Word
  deriving DecidableEq, Repr

/-- The five index spaces of 20_memory.md R60. -/
inductive Space where
  | src | out | head | prev | mlen
  deriving DecidableEq, Repr

/-- FREE VALUE (notes/assumptions/5.md): the byte that stands at an address of `SRC` or `OUT` nobody has
written since contents last became unspecified, the `epoch`-th time (10_state.md R39, R41). -/
opaque Config.noValueByte (sp : Space) (epoch addr : Nat) : Byte

/-- FREE VALUE (notes/assumptions/5.md): the entry of a scanner table the current job has not written. -/
opaque Config.noValueWord (sp : Space) (epoch addr : Nat) : Word

/-- FREE VALUE (notes/assumptions/6.md): the `n`-th unspecified result handed to the host
(30_encoding.md R91, 60_exceptions.md R405). -/
opaque Config.freeWord (n : Nat) : Word

end Sys2Proof
end

