-- ==== Sys2Proof/Machine/Params.lean ====
section
/-! DEFINITION. The numbers of 00_scope.md: the constants R6 gives, and the default of every parameter of R7
(the value `State.reset` has). Constants that only the host uses (the scan windows, `KEYS` apart) are
kept for statements about what the formats can spell. -/

namespace Sys2Proof

/-- The defaults of 00_scope.md R6 (input limits) and R7. -/
def Config.standard : Config where
  srcCap := 1048576
  outCap := 1048576
  maxInputMdk := 1048576
  maxInputLzf := 1048576
  maxInputPletter := 65536
  maxInputDan1 := 262144
  maxInputDan3 := 524288
  maxInputZx7 := 1048576
  maxInputZx0 := 1048576
  valBits := 32
  nil := 0xFFFFFFFF
  igCont := true
  dan3ZeroLimit := 16
  pletterSentinel := 65536
  dan1SelFar := true
  dan3Prefix := { tierA := [true, false], tierB := [false], tierC := [true, true] }
  wideSplit := .bitsThenByte
  zx0InitialOffset := 1

/-- The width of the value registers: `VAL_BITS`, and no more than the 32 bits of a word of the interface (10_state.md R29, 30_encoding.md R90;
DESIGN CHOICE, notes/assumptions/4.md). -/
def Config.valueBits (cfg : Config) : Nat := min cfg.valBits 32

/-- What a value register holds of a word stored into it: its low `VAL_BITS` bits (00_scope.md R7, R9). With the default width of 32 it is the word. That the bits above a
narrower register's are dropped is what 10_state.md R29 says of bits a register does not name (DEDUCED, notes/assumptions/4.md). -/
def Config.fit (cfg : Config) (v : Word) : Word := BitVec.ofNat 32 (v.toNat % 2 ^ cfg.valueBits)

namespace Params

/-- `KEYS`, the entries of `HEAD`. -/
def keys : Nat := 65536

/-- Reset value of `BB_MAXINPUT` (`MAXINPUT[BITBUSTER]`, "configurable, default 524,288"). -/
def bbMaxInputReset : Word := 524288

/-- `LZF_MAXOFF`. -/
def lzfMaxOff : Nat := 7936

/-- `LZF_MINMATCH`. -/
def lzfMinMatch : Nat := 3

/-- `LZF_SHORT_MAXLEN`. -/
def lzfShortMaxLen : Nat := 8

/-- `LZF_LONG_MAXLEN`. -/
def lzfLongMaxLen : Nat := 264

/-- `PLETTER_MAXOFF[q]` = 128, 256, …, 8192 for `q` = 1..7. -/
def pletterMaxOff (q : Nat) : Nat := 128 * 2 ^ (q - 1)

/-- `PLETTER_EXTRA[q]`, the width of `extraBits`, for `q` = 1..7. No rule gives a width for the 0 that `d_q` holds outside a Pletter job (10_state.md R25, 45_pletter.md R276), which a match meets
only where `CODEC` becomes Pletter in another codec's job: the model reads no bits then (DESIGN CHOICE, notes/assumptions/7.md). -/
def pletterExtra (q : Nat) : Nat := q - 1

/-- `PLETTER_END_BITS`. -/
def pletterEndBits : Nat := 34

/-- `PLETTER_DSK2ROM_SENTINEL`. -/
def pletterDsk2romSentinel : Word := 131072

/-- `DAN1_W[t]`, the width of tier `t`'s field; there are the tiers 1 to 4. -/
def dan1Width : Nat → Nat
  | 1 => 1
  | 2 => 4
  | 3 => 8
  | 4 => 12
  | _ => 0

/-- `DAN1_BOUND[t]`, with 0 in front for tier 1's base: tier `t` has base `dan1Bound (t - 1)`. -/
def dan1Bound : Nat → Nat
  | 0 => 0
  | 1 => 2
  | 2 => 18
  | 3 => 274
  | _ => 4370

/-- `DAN1_RAW_MIN`. -/
def dan1RawMin : Nat := 27

/-- `DAN1_ZERO_LIMIT`; ZX7's reader has the same limit (41_gamma.md R154). -/
def zeroLimit16 : Nat := 16

/-- `DAN3_MAXOFF[subset]`. -/
def dan3MaxOff (subset : Nat) : Nat := 2 ^ (9 + subset) + 32 + 256

/-- `ZX7_MAXOFF1`. -/
def zx7MaxOff1 : Nat := 128

/-- `ZX7_MAXOFF2`. -/
def zx7MaxOff2 : Nat := 2176

/-- `ZX0_EOF_MSB`. -/
def zx0EofMsb : Word := 256

/-- Largest offset ZX0 can spell (48_zx0.md R357). -/
def zx0MaxOff : Nat := 32640

/-- `ZX0_QUICK_MAXOFF`, a figure of the host's parser. -/
def zx0QuickMaxOff : Nat := 2176

/-- `BB_SCAN_MAXOFF`, a figure of the host's parser. -/
def bbScanMaxOff : Nat := 2047

/-- `BB_GAMMA_LIMIT`. -/
def bbGammaLimit : Nat := 16

end Params

end Sys2Proof
end

