-- ==== Sys2Proof/Syntax.lean ====
section
/-! DEFINITION. The instructions of RCL-BSE, one constructor per row of spec/opcode_table.json: the 33
commands of 30_encoding.md R92 and the 35 tokens of R97 to R105. A token's operands are the fields
its table gives, as the token decoder hands them to the token's rule; what a rule fetches while it acts (the
payload bytes of a run, the state bit of ZX0 and the length of a new-offset match) is no operand
(notes/assumptions/15.md). -/

namespace Sys2Proof

/-- The offset field of a DAN1 match, by tier (30_encoding.md R101, 46_dan1_dan3.md R297). -/
inductive Dan1Offset where
  | tier1 (u : BitVec 1)
  | tier2 (u : BitVec 4)
  | tier3 (v : Byte)
  | tier4 (hi : BitVec 4) (lo : Byte)
  deriving DecidableEq, Repr

/-- The offset field of a DAN3 match: the two tiers of length 1 (R317) and the three of R316. In tier C
`hi` has `subset + 1` bits. -/
inductive Dan3Offset where
  | one
  | two (u : BitVec 1)
  | tierA (u : BitVec 5)
  | tierB (v : Byte)
  | tierC (hi lo : Byte)
  deriving DecidableEq, Repr

/-- One instruction: a command of the host or a token of a codec's stream. -/
inductive Instr where
  -- commands (30_encoding.md R92)
  | reset
  | regRead (reg : Word)
  | regWrite (reg value : Word)
  | abort
  | srcWrite (index value : Word)
  | outRead (index : Word)
  | mlenRead (offset : Word)
  | bwInit
  | writeBit (v : Word)
  | writeByte (v : Word)
  | writeBits (value size : Word)
  | wSetBacktrack
  | flush
  | brInit
  | readBit
  | readByte
  | readBits (size : Word)
  | rSetBacktrack
  | egWrite (value : Word)
  | egRead (limit : Word)
  | igWrite (value flags : Word)
  | igRead (sentinel flags : Word)
  | bbgWrite (value : Word)
  | bbgRead
  | gammaBits (value : Word)
  | msInit
  | msInsert (i : Word)
  | msWalk (i : Word)
  | msLinear (i : Word)
  | msStepRun
  | tdStart
  | tdStep
  | tdRun
  -- MDK-RLE (R97): `c` is `C[6:0]`
  | mdkRaw (c : BitVec 7)
  | mdkRle (c : BitVec 7) (value : Byte)
  | mdkEnd
  -- LZF (R98): `n`, `hi` are `B[4:0]`, `control` is `B[7:5]`
  | lzfLrun (n : BitVec 5)
  | lzfShort (control : BitVec 3) (hi : BitVec 5) (lo : Byte)
  | lzfLong (hi : BitVec 5) (len9 lo : Byte)
  | lzfEnd
  -- Pletter (R99): `g` is the length less 1, `extra` has `q - 1` bits
  | pltQ (u : BitVec 3)
  | pltFirst (value : Byte)
  | pltLit (value : Byte)
  | pltMatch (g : Word) (bo : Byte) (extra : BitVec 6)
  | pltEnd
  -- DAN1 (R100, R101)
  | dan1First (value : Byte)
  | dan1Lit (value : Byte)
  | dan1Match (len : Word) (off : Dan1Offset)
  | dan1Raw (n27 : Byte)
  | dan1End
  -- DAN3 (R102)
  | dan3Subset (subset : BitVec 3)
  | dan3First (value : Byte)
  | dan3Lit (value : Byte)
  | dan3Match (len : Word) (off : Dan3Offset)
  | dan3Raw (n1 : Byte)
  | dan3End
  -- ZX7 (R103): `g` is the length less 1, `high` is read only when `bo[7] = 1`
  | zx7First (value : Byte)
  | zx7Lit (value : Byte)
  | zx7Match (g : Word) (bo : Byte) (high : BitVec 4)
  | zx7End
  -- ZX0 (R104): `bo[0]` is the first bit of the length gamma
  | zx0Lits (n : Word)
  | zx0Rep (len : Word)
  | zx0Match (msb : Word) (bo : Byte)
  | zx0End
  -- BitBuster (R105): `g` is the length less 2, `hi` is read only when `d[7] = 1`
  | bbLen (n : Word)
  | bbLit (value : Byte)
  | bbMatch (d : Byte) (hi : BitVec 4) (g : Word)
  | bbEnd
  deriving DecidableEq, Repr

end Sys2Proof
end

