-- ==== Sys2Proof/WellFormed.lean ====
section
/-! DEFINITION. Which instructions have an encoding at all, whatever the state of the decoder
(30_encoding.md R92, R97 to R105). Every operand of a command is encodable; a token's fields must
lie in the ranges its table gives. What also depends on the job (Pletter's `q` and sentinel, DAN3's subset
and zero limit) is `encodableIn` of Decode.lean. -/

namespace Sys2Proof

/-- A DAN1 offset field belongs to the length it is given with (R101): tier 4 from length 3, tier 3 from
length 2. -/
def Dan1Offset.fits (len : Word) : Dan1Offset → Bool
  | .tier1 _ => true
  | .tier2 _ => true
  | .tier3 _ => 2 ≤ len
  | .tier4 _ _ => 3 ≤ len

/-- A DAN3 offset field belongs to the length it is given with (R102): its own two forms at length 1. -/
def Dan3Offset.fits (len : Word) : Dan3Offset → Bool
  | .one => len = 1
  | .two _ => len = 1
  | .tierA _ => 2 ≤ len
  | .tierB _ => 2 ≤ len
  | .tierC _ _ => 2 ≤ len

/-- The instruction has an encoding (in some job). -/
def Instr.wf : Instr → Bool
  | .reset | .regRead _ | .regWrite _ _ | .abort | .srcWrite _ _ | .outRead _ | .mlenRead _ => true
  | .bwInit | .writeBit _ | .writeByte _ | .writeBits _ _ | .wSetBacktrack | .flush => true
  | .brInit | .readBit | .readByte | .readBits _ | .rSetBacktrack => true
  | .egWrite _ | .egRead _ | .igWrite _ _ | .igRead _ _ | .bbgWrite _ | .bbgRead | .gammaBits _ => true
  | .msInit | .msInsert _ | .msWalk _ | .msLinear _ | .msStepRun => true
  | .tdStart | .tdStep | .tdRun => true
  | .mdkRaw _ => true
  | .mdkRle c _ => c ≠ 0x7F
  | .mdkEnd => true
  | .lzfLrun _ => true
  | .lzfShort control _ _ => 1 ≤ control ∧ control ≤ 6
  | .lzfLong hi _ _ => hi ≠ 0x1F
  | .lzfEnd => true
  | .pltQ u => u ≠ 7
  | .pltFirst _ | .pltLit _ => true
  | .pltMatch g bo extra => 1 ≤ g ∧ (bo < 128 → extra = 0)
  | .pltEnd => true
  | .dan1First _ | .dan1Lit _ => true
  | .dan1Match len off => 1 ≤ len ∧ len ≤ 65535 ∧ off.fits len
  | .dan1Raw _ | .dan1End => true
  | .dan3Subset _ | .dan3First _ | .dan3Lit _ => true
  | .dan3Match len off => 1 ≤ len ∧ off.fits len
  | .dan3Raw _ | .dan3End => true
  | .zx7First _ | .zx7Lit _ => true
  | .zx7Match g bo high => 1 ≤ g ∧ g ≤ 65535 ∧ (bo < 128 → high = 0)
  | .zx7End => true
  | .zx0Lits n => 1 ≤ n
  | .zx0Rep len => 1 ≤ len
  | .zx0Match msb _ => 1 ≤ msb ∧ msb ≤ 255
  | .zx0End => true
  | .bbLen _ | .bbLit _ => true
  | .bbMatch d hi g => (d < 128 → hi = 0) ∧ g ≤ 65534
  | .bbEnd => true

/-- The instruction is a command of the host (30_encoding.md R92), not a token. -/
def Instr.isCommand : Instr → Bool
  | .reset | .regRead _ | .regWrite _ _ | .abort | .srcWrite _ _ | .outRead _ | .mlenRead _ => true
  | .bwInit | .writeBit _ | .writeByte _ | .writeBits _ _ | .wSetBacktrack | .flush => true
  | .brInit | .readBit | .readByte | .readBits _ | .rSetBacktrack => true
  | .egWrite _ | .egRead _ | .igWrite _ _ | .igRead _ _ | .bbgWrite _ | .bbgRead | .gammaBits _ => true
  | .msInit | .msInsert _ | .msWalk _ | .msLinear _ | .msStepRun => true
  | .tdStart | .tdStep | .tdRun => true
  | .mdkRaw _ | .mdkRle _ _ | .mdkEnd => false
  | .lzfLrun _ | .lzfShort _ _ _ | .lzfLong _ _ _ | .lzfEnd => false
  | .pltQ _ | .pltFirst _ | .pltLit _ | .pltMatch _ _ _ | .pltEnd => false
  | .dan1First _ | .dan1Lit _ | .dan1Match _ _ | .dan1Raw _ | .dan1End => false
  | .dan3Subset _ | .dan3First _ | .dan3Lit _ | .dan3Match _ _ | .dan3Raw _ | .dan3End => false
  | .zx7First _ | .zx7Lit _ | .zx7Match _ _ _ | .zx7End => false
  | .zx0Lits _ | .zx0Rep _ | .zx0Match _ _ | .zx0End => false
  | .bbLen _ | .bbLit _ | .bbMatch _ _ _ | .bbEnd => false

end Sys2Proof
end

