-- ==== Sys2Proof/Decode.lean ====
section
/-! DEFINITION. Decoding and encoding (30_encoding.md). Commands are decoded from `(OP, A, B)`; tokens are
decoded through a *port*, which says how the next bit and the next byte of the stream are obtained. The machine
supplies its bit reader BR as the port; the encoder's element lists are a port as well, so that one decoder
serves both. The gamma readers of 41_gamma.md are written here for the same reason. -/

namespace Sys2Proof

/-! ## Results of an operation -/

/-- What an operation over `σ` answers: a value and the state after it; a `raise` (60_exceptions.md R404) with the
state as the operation had made it so far; or the model's own stop. -/
inductive Res (σ φ α : Type) where
  | ok (a : α) (s : σ)
  | raised (k : ErrKind) (s : σ)
  | stuck (f : φ)
  deriving DecidableEq, Repr

/-- Sequencing: the first `raise` or stop ends the operation (60_exceptions.md R408). -/
def Res.bind {σ φ α β : Type} : Res σ φ α → (α → σ → Res σ φ β) → Res σ φ β
  | .ok a s, f => f a s
  | .raised k s, _ => .raised k s
  | .stuck e, _ => .stuck e

/-- Apply a function to the value of a completed operation. -/
def Res.map {σ φ α β : Type} (f : α → β) (r : Res σ φ α) : Res σ φ β :=
  r.bind fun a s => .ok (f a) s

/-- How the decoder reaches its stream: the next bit (`READ_BIT`), the next byte (`READ_BYTE`), and what the reader of
the DAN3 preamble records when it has seen one more `1` (46_dan1_dan3.md R311 counts in `d_subset`). -/
structure Port (σ φ : Type) where
  bit : σ → Res σ φ Bool
  byte : σ → Res σ φ Byte
  one : σ → σ

/-! ## Bit fields, most significant bit first (20_memory.md R67) -/

/-- The low `n` bits of `v`, the most significant of them first (40_bitio.md R123). -/
def bitsOf (v : Word) : Nat → List Bool
  | 0 => []
  | n + 1 => v.getLsbD n :: bitsOf v n

/-- `(v << 1) | b`. -/
def shiftIn (v : Word) (b : Bool) : Word :=
  (v <<< 1) ||| (BitVec.ofBool b).setWidth 32

/-- The loop of `READ_BITS` (40_bitio.md R128): `n` more bits shifted into `v`. -/
def readBitsInto {σ φ : Type} (P : Port σ φ) : Nat → Word → σ → Res σ φ Word
  | 0, v, s => .ok v s
  | n + 1, v, s => (P.bit s).bind fun b s => readBitsInto P n (shiftIn v b) s

/-- `READ_BITS(n)` for `n ≤ 32` (R128). -/
def readField {σ φ : Type} (P : Port σ φ) (n : Nat) (s : σ) : Res σ φ Word :=
  readBitsInto P n 0 s

/-! ## The gamma codes (41_gamma.md). A reader answers `none` for the sentinel. -/

/-- `floor_log2` for an argument of at least 1 (00_scope.md R9). -/
def floorLog2 (v : Nat) : Nat := Nat.log2 v

/-- `GAMMA_BITS` (R166). -/
def gammaBitsOf (v : Nat) : Nat := 2 * floorLog2 v + 1

/-- The codeword of `EG_WRITE(value)` (R151). -/
def egCode (value : Word) : List Bool :=
  let k := floorLog2 value.toNat
  List.replicate k false ++ bitsOf value (k + 1)

/-- The first loop of `EG_READ` (R153): count zeros, at most `left` more; `none` once the limit is reached, without
reading further. -/
def egZeros {σ φ : Type} (P : Port σ φ) : Nat → Nat → σ → Res σ φ (Option Nat)
  | 0, _, s => .ok none s
  | left + 1, k, s => (P.bit s).bind fun b s => if b then .ok (some k) s else egZeros P left (k + 1) s

/-- The value a gamma reader has read, which raises if it does not fit `VAL_BITS` (30_encoding.md R107, R169). `EG_READ` and `BBG_READ` test the value when the whole code has
been read; with 32 bits they never raise here (DESIGN CHOICE, notes/assumptions/4.md). -/
def fitting {σ φ : Type} (cfg : Config) (v : Word) (s : σ) : Res σ φ Word :=
  if 2 ^ cfg.valueBits ≤ v.toNat then .raised .malformedToken s else .ok v s

/-- `EG_READ(limit)` (R153): a limit of 0 is taken as 32, one above 32 raises. The decoder's calls are this operation too
(46_dan1_dan3.md R292, R313, 47_zx7.md R332; notes/assumptions/25.md). -/
def egReadCode {σ φ : Type} (P : Port σ φ) (cfg : Config) (limit : Nat) (s : σ) : Res σ φ (Option Word) :=
  if 32 < limit then .raised .malformedToken s
  else (egZeros P (if limit = 0 then 32 else limit) 0 s).bind fun k s =>
    match k with
    | none => .ok none s
    | some k => (readBitsInto P k 1 s).bind fun v s => (fitting cfg v s).map some

/-- The pairs and the stop tag of an interlaced code, for the `n` low bits of `value`. -/
def igPairs (cont inverted : Bool) (value : Word) : Nat → List Bool
  | 0 => [!cont]
  | n + 1 => cont :: (value.getLsbD n ^^ inverted) :: igPairs cont inverted value n

/-- The continuation tag: `IG_CONT`, or its complement when `backwards` (R158, R160). -/
def igTag (cfg : Config) (backwards : Bool) : Bool := cfg.igCont ^^ backwards

/-- The codeword of `IG_WRITE(value, inverted, backwards)` (R158). -/
def igCode (cfg : Config) (inverted backwards : Bool) (value : Word) : List Bool :=
  igPairs (igTag cfg backwards) inverted value (floorLog2 value.toNat)

/-- The loop of `IG_READ` (R160, R169) with values of `width` bits. The value doubles with every pair, so that after `width - 1` pairs
it is at least `2^(width - 1)` and a further continuation tag raises: 32 rounds are all there can be. -/
def igLoop {σ φ : Type} (P : Port σ φ) (width : Nat) (cont inverted : Bool) (sentinel : Word) :
    Nat → Word → σ → Res σ φ (Option Word)
  | 0, _, s => .raised .malformedToken s
  | n + 1, value, s =>
    (P.bit s).bind fun t s =>
      if t ≠ cont then .ok (some value) s
      else if 2 ^ (width - 1) ≤ value.toNat then .raised .malformedToken s
      else (P.bit s).bind fun p s =>
        let value := shiftIn value (p ^^ inverted)
        if sentinel ≠ 0 ∧ sentinel ≤ value then .ok none s
        else igLoop P width cont inverted sentinel n value s

/-- `IG_READ(sentinel, inverted, backwards)` (R160). -/
def igReadCode {σ φ : Type} (P : Port σ φ) (cfg : Config) (sentinel : Word) (inverted backwards : Bool) (s : σ) :
    Res σ φ (Option Word) :=
  igLoop P cfg.valueBits (igTag cfg backwards) inverted sentinel 32 1 s

/-- The codeword of `BBG_WRITE(value)` for `value ≤ 65534` (R163). -/
def bbgCode (value : Word) : List Bool :=
  let m := value.toNat + 1
  let k := floorLog2 m
  List.replicate k true ++ false :: bitsOf (BitVec.ofNat 32 m) k

/-- The first loop of `BBG_READ` (R164): count ones, `none` once the limit is reached. -/
def bbgOnes {σ φ : Type} (P : Port σ φ) : Nat → Nat → σ → Res σ φ (Option Nat)
  | 0, _, s => .ok none s
  | left + 1, k, s => (P.bit s).bind fun b s => if b then bbgOnes P left (k + 1) s else .ok (some k) s

/-- `BBG_READ` (R164): the value is one less than the number `m` the code spells, and it is the value that has to fit. -/
def bbgReadCode {σ φ : Type} (P : Port σ φ) (cfg : Config) (s : σ) : Res σ φ (Option Word) :=
  (bbgOnes P Params.bbGammaLimit 0 s).bind fun k s =>
    match k with
    | none => .ok none s
    | some k => (readBitsInto P k 1 s).bind fun m s => (fitting cfg (m - 1) s).map some

/-! ## Commands (30_encoding.md R90, R92) -/

/-- A command as the host issues it: `OP` 8 bits, `A` and `B` 32 bits each (R90). -/
structure Command where
  op : Byte
  a : Word
  b : Word
  deriving DecidableEq, Repr

/-- The instruction of a command, or the rejection R92 and R107 name for an `OP` outside the table. -/
def decodeCommand (c : Command) : Except ErrKind Instr :=
  match c.op.toNat with
  | 0x00 => .ok .reset
  | 0x01 => .ok (.regRead c.a)
  | 0x02 => .ok (.regWrite c.a c.b)
  | 0x03 => .ok .abort
  | 0x04 => .ok (.srcWrite c.a c.b)
  | 0x05 => .ok (.outRead c.a)
  | 0x06 => .ok (.mlenRead c.a)
  | 0x10 => .ok .bwInit
  | 0x11 => .ok (.writeBit c.a)
  | 0x12 => .ok (.writeByte c.a)
  | 0x13 => .ok (.writeBits c.a c.b)
  | 0x14 => .ok .wSetBacktrack
  | 0x15 => .ok .flush
  | 0x20 => .ok .brInit
  | 0x21 => .ok .readBit
  | 0x22 => .ok .readByte
  | 0x23 => .ok (.readBits c.a)
  | 0x24 => .ok .rSetBacktrack
  | 0x30 => .ok (.egWrite c.a)
  | 0x31 => .ok (.egRead c.a)
  | 0x32 => .ok (.igWrite c.a c.b)
  | 0x33 => .ok (.igRead c.a c.b)
  | 0x34 => .ok (.bbgWrite c.a)
  | 0x35 => .ok .bbgRead
  | 0x36 => .ok (.gammaBits c.a)
  | 0x40 => .ok .msInit
  | 0x41 => .ok (.msInsert c.a)
  | 0x42 => .ok (.msWalk c.a)
  | 0x43 => .ok (.msLinear c.a)
  | 0x44 => .ok .msStepRun
  | 0x50 => .ok .tdStart
  | 0x51 => .ok .tdStep
  | 0x52 => .ok .tdRun
  | _ => .error .malformedToken

/-- The command that spells an instruction, fields it ignores as 0; a token is spelled by no command. -/
def encodeCommand : Instr → Option Command
  | .reset => some ⟨0x00, 0, 0⟩
  | .regRead r => some ⟨0x01, r, 0⟩
  | .regWrite r v => some ⟨0x02, r, v⟩
  | .abort => some ⟨0x03, 0, 0⟩
  | .srcWrite i v => some ⟨0x04, i, v⟩
  | .outRead i => some ⟨0x05, i, 0⟩
  | .mlenRead i => some ⟨0x06, i, 0⟩
  | .bwInit => some ⟨0x10, 0, 0⟩
  | .writeBit v => some ⟨0x11, v, 0⟩
  | .writeByte v => some ⟨0x12, v, 0⟩
  | .writeBits v n => some ⟨0x13, v, n⟩
  | .wSetBacktrack => some ⟨0x14, 0, 0⟩
  | .flush => some ⟨0x15, 0, 0⟩
  | .brInit => some ⟨0x20, 0, 0⟩
  | .readBit => some ⟨0x21, 0, 0⟩
  | .readByte => some ⟨0x22, 0, 0⟩
  | .readBits n => some ⟨0x23, n, 0⟩
  | .rSetBacktrack => some ⟨0x24, 0, 0⟩
  | .egWrite v => some ⟨0x30, v, 0⟩
  | .egRead n => some ⟨0x31, n, 0⟩
  | .igWrite v f => some ⟨0x32, v, f⟩
  | .igRead n f => some ⟨0x33, n, f⟩
  | .bbgWrite v => some ⟨0x34, v, 0⟩
  | .bbgRead => some ⟨0x35, 0, 0⟩
  | .gammaBits v => some ⟨0x36, v, 0⟩
  | .msInit => some ⟨0x40, 0, 0⟩
  | .msInsert i => some ⟨0x41, i, 0⟩
  | .msWalk i => some ⟨0x42, i, 0⟩
  | .msLinear i => some ⟨0x43, i, 0⟩
  | .msStepRun => some ⟨0x44, 0, 0⟩
  | .tdStart => some ⟨0x50, 0, 0⟩
  | .tdStep => some ⟨0x51, 0, 0⟩
  | .tdRun => some ⟨0x52, 0, 0⟩
  | .mdkRaw _ | .mdkRle _ _ | .mdkEnd => none
  | .lzfLrun _ | .lzfShort _ _ _ | .lzfLong _ _ _ | .lzfEnd => none
  | .pltQ _ | .pltFirst _ | .pltLit _ | .pltMatch _ _ _ | .pltEnd => none
  | .dan1First _ | .dan1Lit _ | .dan1Match _ _ | .dan1Raw _ | .dan1End => none
  | .dan3Subset _ | .dan3First _ | .dan3Lit _ | .dan3Match _ _ | .dan3Raw _ | .dan3End => none
  | .zx7First _ | .zx7Lit _ | .zx7Match _ _ _ | .zx7End => none
  | .zx0Lits _ | .zx0Rep _ | .zx0Match _ _ | .zx0End => none
  | .bbLen _ | .bbLit _ | .bbMatch _ _ _ | .bbEnd => none

/-! ## Tokens (30_encoding.md R97 to R105) -/

/-- What the decoder fetches next: an element of a header, or a token in one of the decoder's states
(43_decoder_common.md R217). -/
inductive Element where
  | mdkToken | lzfToken
  | pltQ | pltFirst | pltToken
  | dan1First | dan1Token
  | dan3Subset | dan3First | dan3Token
  | zx7First | zx7Token
  | zx0Lits | zx0Rep | zx0New
  | bbLen | bbToken
  deriving DecidableEq, Repr

/-- What the reading of a token depends on besides the stream: the parameters, Pletter's `d_q` and `d_sentinel`, DAN3's
`d_subset`, and ZX0's `inv` and `bw` (48_zx0.md, head). -/
structure DecodeCtx where
  cfg : Config
  q : BitVec 3
  sentinel : Word
  subset : BitVec 3
  inv : Bool
  bw : Bool
  deriving DecidableEq, Repr

section Readers
variable {σ φ : Type} (P : Port σ φ)

/-- An offset field wider than 8 bits: `n` high bits and the low 8 (`WIDE_SPLIT`, 20_memory.md R68). -/
def readWide (split : WideSplit) (n : Nat) (s : σ) : Res σ φ (Word × Byte) :=
  match split with
  | .bitsThenByte => (readField P n s).bind fun hi s => (P.byte s).bind fun lo s => .ok (hi, lo) s

/-- `TOKEN[MDK_RLE]` (44_mdkrle_lzf.md R241). -/
def decodeMdk (s : σ) : Res σ φ Instr :=
  (P.byte s).bind fun c s =>
    if c = 0xFF then .ok .mdkEnd s
    else if c < 0x80 then .ok (.mdkRaw (c.setWidth 7)) s
    else (P.byte s).bind fun v s => .ok (.mdkRle (c.setWidth 7) v) s

/-- `TOKEN[LZF]` (R249): the END test comes before the control field. -/
def decodeLzf (s : σ) : Res σ φ Instr :=
  (P.byte s).bind fun b s =>
    let control := b.extractLsb' 5 3
    let hi := b.setWidth 5
    if b = 0xFF then .ok .lzfEnd s
    else if control = 0 then .ok (.lzfLrun hi) s
    else if control = 7 then
      (P.byte s).bind fun len9 s => (P.byte s).bind fun lo s => .ok (.lzfLong hi len9 lo) s
    else (P.byte s).bind fun lo s => .ok (.lzfShort control hi lo) s

/-- `TOKEN[PLETTER]` with the fields of `PLT.MATCH` (45_pletter.md R274, R276). -/
def decodePlt (c : DecodeCtx) (s : σ) : Res σ φ Instr :=
  (P.bit s).bind fun t s =>
    if t = false then (P.byte s).bind fun v s => .ok (.pltLit v) s
    else (igReadCode P c.cfg c.sentinel false false s).bind fun g s =>
      match g with
      | none => .ok .pltEnd s
      | some g => (P.byte s).bind fun bo s =>
        if bo < 128 then .ok (.pltMatch g bo 0) s
        else (readField P (Params.pletterExtra c.q.toNat) s).bind fun e s =>
          .ok (.pltMatch g bo (e.setWidth 6)) s

/-- The last selector of `DAN1_OFFSET` and the two nearest tiers (46_dan1_dan3.md R297). -/
def dan1Near (far : Bool) (s : σ) : Res σ φ Dan1Offset :=
  (P.bit s).bind fun b s =>
    if b = far then (readField P (Params.dan1Width 2) s).bind fun u s => .ok (.tier2 (u.setWidth 4)) s
    else (readField P (Params.dan1Width 1) s).bind fun u s => .ok (.tier1 (u.setWidth 1)) s

/-- From selector `s2` on, which a length of 1 does not have. -/
def dan1Mid (far : Bool) (len : Word) (s : σ) : Res σ φ Dan1Offset :=
  if 2 ≤ len then
    (P.bit s).bind fun b s =>
      if b = far then (P.byte s).bind fun v s => .ok (.tier3 v) s else dan1Near P far s
  else dan1Near P far s

/-- `DAN1_OFFSET(len)` (R297): selectors from the outermost inward, `s3` only from length 3. -/
def dan1OffsetRead (cfg : Config) (len : Word) (s : σ) : Res σ φ Dan1Offset :=
  if 3 ≤ len then
    (P.bit s).bind fun b s =>
      if b = cfg.dan1SelFar then
        (readWide P cfg.wideSplit (Params.dan1Width 4 - 8) s).bind fun w s => .ok (.tier4 (w.1.setWidth 4) w.2) s
      else dan1Mid P cfg.dan1SelFar len s
  else dan1Mid P cfg.dan1SelFar len s

/-- `TOKEN[DAN1]` with the fields of the match and the count of the RAW block (R292 to R298). -/
def decodeDan1 (c : DecodeCtx) (s : σ) : Res σ φ Instr :=
  (P.bit s).bind fun t s =>
    if t then (P.byte s).bind fun v s => .ok (.dan1Lit v) s
    else (egReadCode P c.cfg Params.zeroLimit16 s).bind fun g s =>
      match g with
      | some g => (dan1OffsetRead P c.cfg g s).bind fun off s => .ok (.dan1Match g off) s
      | none => (P.bit s).bind fun u s =>
        if u then (P.byte s).bind fun n s => .ok (.dan1Raw n) s else .ok .dan1End s

/-- The DAN3 preamble (R311) with `left` more ones allowed: the number of ones, and `InvalidHeader` at the eighth. -/
def subsetRead : Nat → σ → Res σ φ Nat
  | 0, s => (P.bit s).bind fun b s => if b then .raised .invalidHeader s else .ok 7 s
  | left + 1, s => (P.bit s).bind fun b s => if b then subsetRead left (P.one s) else .ok (6 - left) s

/-- The three tiers of R316. -/
inductive Dan3Tier where
  | a | b | c
  deriving DecidableEq, Repr

/-- The tier whose prefix code a bit string is. -/
def Dan3Prefix.tierOf (p : Dan3Prefix) (bits : List Bool) : Option Dan3Tier :=
  if bits = p.tierB then some .b
  else if bits = p.tierA then some .a
  else if bits = p.tierC then some .c
  else none

/-- The longest prefix code. -/
def Dan3Prefix.maxLen (p : Dan3Prefix) : Nat :=
  max p.tierA.length (max p.tierB.length p.tierC.length)

/-- Read bits until they are the prefix of a tier (R316 with `DAN3_PREFIX` as a parameter). Bits that are no tier's prefix, which
the default codes do not leave, spell nothing. -/
def tierRead (p : Dan3Prefix) : Nat → List Bool → σ → Res σ φ Dan3Tier
  | 0, _, s => .raised .malformedToken s
  | n + 1, bits, s => (P.bit s).bind fun b s =>
    match p.tierOf (bits ++ [b]) with
    | some t => .ok t s
    | none => tierRead p n (bits ++ [b]) s

/-- `DAN3_OFFSET(subset)`, length at least 2 (R316). -/
def dan3OffsetRead (c : DecodeCtx) (s : σ) : Res σ φ Dan3Offset :=
  (tierRead P c.cfg.dan3Prefix c.cfg.dan3Prefix.maxLen [] s).bind fun t s =>
    match t with
    | .b => (P.byte s).bind fun v s => .ok (.tierB v) s
    | .a => (readField P 5 s).bind fun u s => .ok (.tierA (u.setWidth 5)) s
    | .c => (readWide P c.cfg.wideSplit (c.subset.toNat + 1) s).bind fun w s =>
      .ok (.tierC (w.1.setWidth 8) w.2) s

/-- `DAN3_OFFSET1`, length 1 (R317). -/
def dan3Offset1Read (s : σ) : Res σ φ Dan3Offset :=
  (P.bit s).bind fun b s =>
    if b then (readField P 1 s).bind fun u s => .ok (.two (u.setWidth 1)) s else .ok .one s

/-- `TOKEN[DAN3]` with the fields of the match and the count of the RAW block (R313 to R319). `EG_READ(DAN3_ZERO_LIMIT)` is R153's operation
for a parameter of 0 or above 32 as well (DEDUCED, notes/assumptions/25.md). -/
def decodeDan3 (c : DecodeCtx) (s : σ) : Res σ φ Instr :=
  (P.bit s).bind fun t s =>
    if t then (P.byte s).bind fun v s => .ok (.dan3Lit v) s
    else (egReadCode P c.cfg c.cfg.dan3ZeroLimit s).bind fun g s =>
      match g with
      | some g =>
        (if g = 1 then dan3Offset1Read P s else dan3OffsetRead P c s).bind fun off s => .ok (.dan3Match g off) s
      | none => (P.bit s).bind fun u s =>
        if u then (P.byte s).bind fun n s => .ok (.dan3Raw n) s else .ok .dan3End s

/-- `TOKEN[ZX7]` with the fields of the match (47_zx7.md R332 to R336). -/
def decodeZx7 (c : DecodeCtx) (s : σ) : Res σ φ Instr :=
  (P.bit s).bind fun t s =>
    if t = false then (P.byte s).bind fun v s => .ok (.zx7Lit v) s
    else (egReadCode P c.cfg Params.zeroLimit16 s).bind fun g s =>
      match g with
      | some g => (P.byte s).bind fun bo s =>
        if bo < 128 then .ok (.zx7Match g bo 0) s
        else (readField P 4 s).bind fun h s => .ok (.zx7Match g bo (h.setWidth 4)) s
      | none => (P.bit s).bind fun u s => if u then .ok .zx7End s else .raised .malformedToken s

/-- The token of `D_ZX0_NEW` up to its offset byte (48_zx0.md R356, R357). -/
def decodeZx0New (c : DecodeCtx) (s : σ) : Res σ φ Instr :=
  (igReadCode P c.cfg 0 c.inv c.bw s).bind fun m s =>
    match m with
    | none => .raised .malformedToken s
    | some m =>
      if m = Params.zx0EofMsb then .ok .zx0End s
      else if Params.zx0EofMsb < m then .raised .malformedToken s
      else (P.byte s).bind fun bo s => .ok (.zx0Match m bo) s

/-- The length gamma of `ZX0.LITS` and `ZX0.REP`, never inverted (R354, R355). -/
def zx0LengthRead (c : DecodeCtx) (s : σ) : Res σ φ Word :=
  (igReadCode P c.cfg 0 false c.bw s).bind fun n s =>
    match n with
    | none => .raised .malformedToken s
    | some n => .ok n s

/-- `HEADER[BITBUSTER]`: four bytes, least significant first (49_bitbuster.md R381). -/
def decodeBbLen (s : σ) : Res σ φ Instr :=
  (P.byte s).bind fun b0 s => (P.byte s).bind fun b1 s =>
    (P.byte s).bind fun b2 s => (P.byte s).bind fun b3 s => .ok (.bbLen (b3 ++ b2 ++ b1 ++ b0)) s

/-- `TOKEN[BITBUSTER]` after the distance fields: the gamma decides between match, END and nothing (R382). -/
def decodeBbGamma (c : DecodeCtx) (d : Byte) (hi : BitVec 4) (s : σ) : Res σ φ Instr :=
  (bbgReadCode P c.cfg s).bind fun g s =>
    match g with
    | some g => .ok (.bbMatch d hi g) s
    | none => if d = 0 then .ok .bbEnd s else .raised .malformedToken s

/-- `TOKEN[BITBUSTER]` (R382). -/
def decodeBb (c : DecodeCtx) (s : σ) : Res σ φ Instr :=
  (P.bit s).bind fun t s =>
    if t = false then (P.byte s).bind fun v s => .ok (.bbLit v) s
    else (P.byte s).bind fun d s =>
      if d < 128 then decodeBbGamma P c d 0 s
      else (readField P 4 s).bind fun hi s => decodeBbGamma P c d (hi.setWidth 4) s

/-- THE TOKEN DECODER: fetch the element `e` through the port (43_decoder_common.md R211, R217). Total; a stream that spells no
element is rejected by the kind its rule names. -/
def decodeElement (c : DecodeCtx) (e : Element) (s : σ) : Res σ φ Instr :=
  match e with
  | .mdkToken => decodeMdk P s
  | .lzfToken => decodeLzf P s
  | .pltQ => (readField P 3 s).bind fun u s => .ok (.pltQ (u.setWidth 3)) s
  | .pltFirst => (P.byte s).bind fun v s => .ok (.pltFirst v) s
  | .pltToken => decodePlt P c s
  | .dan1First => (P.byte s).bind fun v s => .ok (.dan1First v) s
  | .dan1Token => decodeDan1 P c s
  | .dan3Subset => (subsetRead P 7 s).bind fun n s => .ok (.dan3Subset (BitVec.ofNat 3 n)) s
  | .dan3First => (P.byte s).bind fun v s => .ok (.dan3First v) s
  | .dan3Token => decodeDan3 P c s
  | .zx7First => (P.byte s).bind fun v s => .ok (.zx7First v) s
  | .zx7Token => decodeZx7 P c s
  | .zx0Lits => (zx0LengthRead P c s).bind fun n s => .ok (.zx0Lits n) s
  | .zx0Rep => (zx0LengthRead P c s).bind fun n s => .ok (.zx0Rep n) s
  | .zx0New => decodeZx0New P c s
  | .bbLen => decodeBbLen P s
  | .bbToken => decodeBb P c s

end Readers

/-! ## The encoder -/

/-- One element of a stream as R97 to R105 write it: `bit:` or `byte:`. -/
inductive Elem where
  | bit (b : Bool)
  | byte (v : Byte)
  deriving DecidableEq, Repr

/-- A bit string as elements. -/
def bitElems (bits : List Bool) : List Elem := bits.map .bit

/-- The port over a list of elements: the reader asks for the kind of element that stands next, or the list does not
spell what it is read as. -/
def elemPort (φ : Type) : Port (List Elem) φ where
  bit
    | .bit b :: r => .ok b r
    | s => .raised .truncatedStream s
  byte
    | .byte v :: r => .ok v r
    | s => .raised .truncatedStream s
  one s := s

/-- Where in a stream an instruction stands; `none` for a command. -/
def elementOf : Instr → Option Element
  | .reset | .regRead _ | .regWrite _ _ | .abort | .srcWrite _ _ | .outRead _ | .mlenRead _ => none
  | .bwInit | .writeBit _ | .writeByte _ | .writeBits _ _ | .wSetBacktrack | .flush => none
  | .brInit | .readBit | .readByte | .readBits _ | .rSetBacktrack => none
  | .egWrite _ | .egRead _ | .igWrite _ _ | .igRead _ _ | .bbgWrite _ | .bbgRead | .gammaBits _ => none
  | .msInit | .msInsert _ | .msWalk _ | .msLinear _ | .msStepRun => none
  | .tdStart | .tdStep | .tdRun => none
  | .mdkRaw _ | .mdkRle _ _ | .mdkEnd => some .mdkToken
  | .lzfLrun _ | .lzfShort _ _ _ | .lzfLong _ _ _ | .lzfEnd => some .lzfToken
  | .pltQ _ => some .pltQ
  | .pltFirst _ => some .pltFirst
  | .pltLit _ | .pltMatch _ _ _ | .pltEnd => some .pltToken
  | .dan1First _ => some .dan1First
  | .dan1Lit _ | .dan1Match _ _ | .dan1Raw _ | .dan1End => some .dan1Token
  | .dan3Subset _ => some .dan3Subset
  | .dan3First _ => some .dan3First
  | .dan3Lit _ | .dan3Match _ _ | .dan3Raw _ | .dan3End => some .dan3Token
  | .zx7First _ => some .zx7First
  | .zx7Lit _ | .zx7Match _ _ _ | .zx7End => some .zx7Token
  | .zx0Lits _ => some .zx0Lits
  | .zx0Rep _ => some .zx0Rep
  | .zx0Match _ _ | .zx0End => some .zx0New
  | .bbLen _ => some .bbLen
  | .bbLit _ | .bbMatch _ _ _ | .bbEnd => some .bbToken

/-- An offset field wider than 8 bits, as elements. -/
def wideElems (split : WideSplit) (hi : Word) (n : Nat) (lo : Byte) : List Elem :=
  match split with
  | .bitsThenByte => bitElems (bitsOf hi n) ++ [.byte lo]

/-- Selectors and field of a DAN1 offset, for a match of length `len` (46_dan1_dan3.md R297, Emit). -/
def dan1OffsetElems (cfg : Config) (len : Word) (off : Dan1Offset) : List Elem :=
  let near := Elem.bit (!cfg.dan1SelFar)
  let far := Elem.bit cfg.dan1SelFar
  let s3 := if 3 ≤ len then [near] else []
  let s2 := if 2 ≤ len then [near] else []
  match off with
  | .tier4 hi lo => far :: wideElems cfg.wideSplit (hi.setWidth 32) (Params.dan1Width 4 - 8) lo
  | .tier3 v => s3 ++ [far, .byte v]
  | .tier2 u => s3 ++ s2 ++ far :: bitElems (bitsOf (u.setWidth 32) (Params.dan1Width 2))
  | .tier1 u => s3 ++ s2 ++ near :: bitElems (bitsOf (u.setWidth 32) (Params.dan1Width 1))

/-- Prefix and field of a DAN3 offset (R316, R317, Emit). -/
def dan3OffsetElems (c : DecodeCtx) (off : Dan3Offset) : List Elem :=
  match off with
  | .one => [.bit false]
  | .two u => .bit true :: bitElems (bitsOf (u.setWidth 32) 1)
  | .tierA u => bitElems c.cfg.dan3Prefix.tierA ++ bitElems (bitsOf (u.setWidth 32) 5)
  | .tierB v => bitElems c.cfg.dan3Prefix.tierB ++ [.byte v]
  | .tierC hi lo =>
    bitElems c.cfg.dan3Prefix.tierC ++ wideElems c.cfg.wideSplit (hi.setWidth 32) (c.subset.toNat + 1) lo

/-- `n` zero bits. -/
def zeroElems (n : Nat) : List Elem := bitElems (List.replicate n false)

/-- THE TOKEN ENCODER: the elements of a token up to where its rule begins to act, by the Emit lines of files 44 to 49. What its rule
fetches while it acts follows them in the stream: a run's payload bytes, ZX0's state bit, and the rest of the length code of `ZX0.MATCH`, whose first bit is
`bo[0]`. `tokenElems` of Machine/Emit.lean has the whole token. A command has no elements. -/
def encodeElems (c : DecodeCtx) : Instr → List Elem
  | .reset | .regRead _ | .regWrite _ _ | .abort | .srcWrite _ _ | .outRead _ | .mlenRead _ => []
  | .bwInit | .writeBit _ | .writeByte _ | .writeBits _ _ | .wSetBacktrack | .flush => []
  | .brInit | .readBit | .readByte | .readBits _ | .rSetBacktrack => []
  | .egWrite _ | .egRead _ | .igWrite _ _ | .igRead _ _ | .bbgWrite _ | .bbgRead | .gammaBits _ => []
  | .msInit | .msInsert _ | .msWalk _ | .msLinear _ | .msStepRun => []
  | .tdStart | .tdStep | .tdRun => []
  | .mdkRaw n => [.byte (n.setWidth 8)]
  | .mdkRle n v => [.byte (0x80 ||| n.setWidth 8), .byte v]
  | .mdkEnd => [.byte 0xFF]
  | .lzfLrun n => [.byte (n.setWidth 8)]
  | .lzfShort control hi lo => [.byte (control ++ hi), .byte lo]
  | .lzfLong hi len9 lo => [.byte (0xE0 ||| hi.setWidth 8), .byte len9, .byte lo]
  | .lzfEnd => [.byte 0xFF]
  | .pltQ u => bitElems (bitsOf (u.setWidth 32) 3)
  | .pltFirst v => [.byte v]
  | .pltLit v => [.bit false, .byte v]
  | .pltMatch g bo extra =>
    .bit true :: bitElems (igCode c.cfg false false g) ++ .byte bo ::
      (if bo < 128 then [] else bitElems (bitsOf (extra.setWidth 32) (Params.pletterExtra c.q.toNat)))
  | .pltEnd => .bit true :: (bitElems ((List.replicate (floorLog2 c.sentinel.toNat)
      [c.cfg.igCont, true]).flatten) ++ [.bit true])
  | .dan1First v => [.byte v]
  | .dan1Lit v => [.bit true, .byte v]
  | .dan1Match len off => .bit false :: bitElems (egCode len) ++ dan1OffsetElems c.cfg len off
  | .dan1Raw n => .bit false :: zeroElems Params.zeroLimit16 ++ [.bit true, .byte n]
  | .dan1End => .bit false :: zeroElems Params.zeroLimit16 ++ [.bit false]
  | .dan3Subset n => bitElems (bitsOf 0xFE (n.toNat + 1))
  | .dan3First v => [.byte v]
  | .dan3Lit v => [.bit true, .byte v]
  | .dan3Match len off => .bit false :: bitElems (egCode len) ++ dan3OffsetElems c off
  | .dan3Raw n => .bit false :: zeroElems c.cfg.dan3ZeroLimit ++ [.bit true, .byte n]
  | .dan3End => .bit false :: zeroElems c.cfg.dan3ZeroLimit ++ [.bit false]
  | .zx7First v => [.byte v]
  | .zx7Lit v => [.bit false, .byte v]
  | .zx7Match g bo high =>
    .bit true :: bitElems (egCode g) ++ .byte bo ::
      (if bo < 128 then [] else bitElems (bitsOf (high.setWidth 32) 4))
  | .zx7End => .bit true :: zeroElems Params.zeroLimit16 ++ [.bit true]
  | .zx0Lits n => bitElems (igCode c.cfg false c.bw n)
  | .zx0Rep n => bitElems (igCode c.cfg false c.bw n)
  | .zx0Match msb bo => bitElems (igCode c.cfg c.inv c.bw msb) ++ [.byte bo]
  | .zx0End => bitElems (igCode c.cfg c.inv c.bw Params.zx0EofMsb)
  | .bbLen n => [.byte (n.setWidth 8), .byte (n.extractLsb' 8 8), .byte (n.extractLsb' 16 8), .byte (n.extractLsb' 24 8)]
  | .bbLit v => [.bit false, .byte v]
  | .bbMatch d hi g =>
    .bit true :: .byte d :: (if d < 128 then [] else bitElems (bitsOf (hi.setWidth 32) 4)) ++ bitElems (bbgCode g)
  | .bbEnd => .bit true :: .byte 0x00 :: (bitElems (List.replicate Params.bbGammaLimit true) ++ [.bit false])

/-- What the decoder leaves unread of a token it has identified: the last one-bit of `PLT.END` (45_pletter.md R277) and the terminating zero
of `BB.END` (49_bitbuster.md R386); nothing of any other (43_decoder_common.md R219). Each can stand in a bit byte of its own, which is then left over; R224 names this for
BitBuster only and says `R_POS = SRC_LEN` of every other codec, where the model follows R277 (DEDUCED, notes/assumptions/24.md). -/
def unreadElems (i : Instr) : List Elem :=
  if i = .pltEnd then [.bit true] else if i = .bbEnd then [.bit false] else []

/-- The parameters leave every format its meaning: a value has at least the 18 bits of the largest field (131072), DAN3's
limit is a count of zeros `EG_READ` takes as it is, and no DAN3 prefix code is a prefix of another. The defaults do. -/
def Config.sound (cfg : Config) : Bool :=
  let p := cfg.dan3Prefix
  18 ≤ cfg.valBits ∧ 1 ≤ cfg.dan3ZeroLimit ∧ cfg.dan3ZeroLimit ≤ 32 ∧
  p.tierA.isPrefixOf p.tierB = false ∧ p.tierA.isPrefixOf p.tierC = false ∧
  p.tierB.isPrefixOf p.tierA = false ∧ p.tierB.isPrefixOf p.tierC = false ∧
  p.tierC.isPrefixOf p.tierA = false ∧ p.tierC.isPrefixOf p.tierB = false

/-- A well-formed token whose fields this job's widths and limits admit. Pletter's sentinel bounds the value of a match, and its end run spells a sentinel that is a power
of two above 1 (45_pletter.md R277); no other token depends on it. -/
def encodableIn (c : DecodeCtx) (i : Instr) : Bool :=
  i.wf &&
    match i with
    | .pltMatch g _ extra =>
      (c.sentinel = 0 ∨ g < c.sentinel) ∧ g.toNat < 2 ^ c.cfg.valueBits ∧ extra.toNat < 2 ^ Params.pletterExtra c.q.toNat
    | .pltEnd =>
      c.cfg.igCont = true ∧ 2 ≤ c.sentinel ∧ c.sentinel.toNat = 2 ^ floorLog2 c.sentinel.toNat ∧
        c.sentinel.toNat < 2 ^ c.cfg.valueBits
    | .dan3Match len (.tierC hi _) =>
      len.toNat < 2 ^ min c.cfg.dan3ZeroLimit c.cfg.valueBits ∧ hi.toNat < 2 ^ (c.subset.toNat + 1)
    | .dan3Match len _ => len.toNat < 2 ^ min c.cfg.dan3ZeroLimit c.cfg.valueBits
    | .zx0Lits n => n.toNat < 2 ^ c.cfg.valueBits
    | .zx0Rep len => len.toNat < 2 ^ c.cfg.valueBits
    | _ => true

/-! ## The table's numbering -/

/-- A command as one number (notes/assumptions/1.md): `OP` in bits 7:0, `A` in 39:8, `B` in 71:40. -/
def commandOfNat (w : Nat) : Command :=
  ⟨BitVec.ofNat 8 w, BitVec.ofNat 32 (w >>> 8), BitVec.ofNat 32 (w >>> 40)⟩

/-- The bytes of a token's word, the first in bits 7:0, and zeros behind them up to the longest token
that has a word in the table (`MDK.RAW` with 128 payload bytes). -/
def bytesOfNat (w : Nat) : List Byte :=
  (List.range 130).map fun k => BitVec.ofNat 8 (w >>> (8 * k))

/-- The codec whose token a byte is taken for, when it is no `OP`: of the table's byte-token rows that match it, the row with
the most fixed bits (notes/assumptions/17.md). -/
def tableCodec (b : Byte) : Codec :=
  let control := b.extractLsb' 5 3
  if b = 0xFF then .mdkRle
  else if control = 0 ∨ control = 7 then .lzf
  else .mdkRle

/-- The decoder's context for a table word: the job `State.reset` would start. -/
def tableCtx : DecodeCtx :=
  { cfg := Config.standard, q := 0, sentinel := 0, subset := 0, inv := true, bw := false }

/-- Where the decoder stands for a table word taken as a token. -/
def tableElement (w : Nat) : Element :=
  if tableCodec (BitVec.ofNat 8 w) = .lzf then .lzfToken else .mdkToken

/-- The instruction the decoder reads from a table word: a command where its low byte is an `OP`, else a byte-format token. -/
def decodeTableWord (nbits w : Nat) : Option Instr :=
  let w := w % 2 ^ nbits
  match decodeCommand (commandOfNat w) with
  | .ok i => some i
  | .error _ =>
    match decodeElement (elemPort Unit) tableCtx (tableElement w) ((bytesOfNat w).map .byte) with
    | .ok i _ => some i
    | .raised _ _ => none
    | .stuck _ => none

end Sys2Proof
end

