-- ==== Sys2Proof/Machine/State.lean ====
section
/-! DEFINITION. The state of one RCL-BSE instance (10_state.md) as plain data, the model's own stops, and the state after reset
(70_reset_and_hazards.md R440). INVENTORY.md lists every field with the rule that names it. -/

namespace Sys2Proof.Machine

/-- The values of `d_state`, in the order of their codes 0 to 7 (10_state.md R25). -/
inductive DState where
  | idle | header | token | zx0Lit | zx0Last | zx0New | done | fault
  deriving DecidableEq, Repr

/-- The response of a transaction (30_encoding.md R90): `ST` and the result words; `N` is their number. -/
structure Response where
  st : Word
  res : List Word
  deriving DecidableEq, Repr

/-- A byte buffer: the addresses that hold a value, strictly rising. An address that is not listed holds no value
(10_state.md R41); what a read of it gives is `Config.noValueByte` (notes/assumptions/5.md). -/
abbrev Memory := List Host.Cell

/-- A scanner table (10_state.md R36). Entries below `span` that are not listed hold `fill`, which is how `MS_INIT` writes a whole
table; other entries that are not listed hold no value. Listed entries rise strictly, and none below `span` equals `fill`. -/
structure Table where
  span : Nat
  fill : Word
  cells : List (Nat × Word)
  deriving DecidableEq, Repr

/-- Where the model stops because no rule gives an effect, or as a bound that no run reaches. None of them is a fault of RCL-BSE:
those are the kinds of 60_exceptions.md R400, and taking one gives a next state (`State.raise`). -/
inductive Fault where
  /-- Raised by every operation that accesses `SRC` at an index of `SRC_CAP` or above, which does not exist (20_memory.md R60, 30_encoding.md R91). Safe:
  the model stops. notes/assumptions/9.md. -/
  | srcBeyondCapacity
  /-- Raised by `WRITE_BIT` and what is built on it when it backfills a byte of `OUT` that does not exist (20_memory.md R60): a pending backtrack bit with
  `out_len = 0` after `TD_START`. Safe: the model stops. notes/assumptions/18.md. -/
  | outBeyondCapacity
  /-- Raised by `MS_WALK` when a link of a table without values names a `PREV` entry at `SRC_CAP` or above, which does not exist (20_memory.md R60). Safe: the
  model stops. notes/assumptions/10.md. -/
  | tableBeyondCapacity
  /-- Raised by `MS_WALK` when links of a table without values form a loop, on which 42_scanner.md R185 gives no result. Safe: the model stops.
  notes/assumptions/10.md. -/
  | chainDoesNotEnd
  /-- Raised by `TD_RUN` after more steps than any job has (43_decoder_common.md R213, 70_reset_and_hazards.md R460). Safe: the model stops, and no run
  reaches it. notes/assumptions/14.md. -/
  | runDidNotEnd
  /-- Raised by `TD_STEP` and `TD_RUN` when the host has made `CODEC` name ZX0 in the middle of another codec's job, for which 43_decoder_common.md R217 has
  no token rule (70_reset_and_hazards.md R451). Safe: the model stops. notes/assumptions/8.md. -/
  | codecChangedInJob
  /-- Raised by the token dispatch on an instruction that is no token, which the token decoder never hands to it. Safe: no run reaches it.
  notes/assumptions/15.md. -/
  | notAToken
  deriving DecidableEq, Repr

/-- Why the model has no meaning for an instruction. -/
inductive Refusal where
  /-- Answered by an arm of `exec` whose instruction has no meaning yet, under its mnemonic. Safe: the model stops. No arm does. -/
  | notModelled (mnemonic : String)
  deriving DecidableEq, Repr

/-- The state of one instance. The first line and the last four are the model's own (INVENTORY.md); every other field is a
register, flag, buffer or table of 10_state.md. -/
structure State where
  /-- the instance's parameters (R21), changed by no step -/
  cfg : Config
  -- BW (R22)
  outLen : Word
  wMask : Byte
  wIndex : Word
  wBacktrack : Bool
  -- BR (R23)
  rPos : Word
  rMask : Byte
  rIndex : Word
  rBacktrack : Bool
  rLast : Byte
  -- TD (R25)
  dState : DState
  dLastOffset : Word
  dQ : BitVec 3
  dSubset : BitVec 3
  dSentinel : Word
  dHdrLen : Word
  dTokens : Word
  dMirror : Bool
  -- MS (R36)
  sPos : Word
  -- configuration registers 0 to 7 (R29)
  codec : BitVec 3
  opt : BitVec 7
  srcLen : Word
  skip : Word
  msMode : BitVec 2
  msMaxOff : Word
  msMaxLen : Word
  bbMaxInput : Word
  -- the stored fields of `STATUS` (R35)
  fault : Bool
  err : BitVec 4
  -- buffers and tables (R36, R37)
  src : Memory
  out : Memory
  head : Table
  prev : Table
  mlen : Table
  /-- the commands the host has still to issue, the next one first (notes/assumptions/2.md) -/
  cmds : List Command
  /-- the response to the last transaction (notes/assumptions/3.md) -/
  resp : Response
  /-- how often contents have become unspecified (notes/assumptions/5.md) -/
  epoch : Nat
  /-- how many unspecified results the host has been given (notes/assumptions/6.md) -/
  draws : Nat
  deriving DecidableEq, Repr

/-- A table none of whose entries holds a value. -/
def Table.void : Table := ⟨0, 0, []⟩

/-- The machine right after power-on reset (10_state.md R39, 70_reset_and_hazards.md R440), with the default parameters and no command pending. -/
def State.reset : State where
  cfg := Config.standard
  outLen := 0
  wMask := 0
  wIndex := 0
  wBacktrack := false
  rPos := 0
  rMask := 0
  rIndex := 0
  rBacktrack := false
  rLast := 0
  dState := .idle
  dLastOffset := 0
  dQ := 0
  dSubset := 0
  dSentinel := 0
  dHdrLen := 0
  dTokens := 0
  dMirror := false
  sPos := 0
  codec := 0
  opt := 0
  srcLen := 0
  skip := 0
  msMode := 0
  msMaxOff := 0
  msMaxLen := 0
  bbMaxInput := Params.bbMaxInputReset
  fault := false
  err := 0
  src := []
  out := []
  head := Table.void
  prev := Table.void
  mlen := Table.void
  cmds := []
  resp := ⟨0, []⟩
  epoch := 0
  draws := 0

end Sys2Proof.Machine
end

