-- ==== Sys2Proof/Machine/Flags.lean ====
section
/-! DEFINITION. The codes of the coded fields and the views the host sees of them: `STATUS` (10_state.md R35), `OPT` (R31), `CODEC` (R33), `MS_MODE`
(R34), the fault codes (60_exceptions.md R400) and the twelve registers (R29). The hardware has no condition codes (R28); its
one-bit flags are fields of `State`. -/

namespace Sys2Proof.Machine

/-- The value `STATUS.ERR` takes (60_exceptions.md R400). -/
def errCode : ErrKind → BitVec 4
  | .inputTooLarge => 1
  | .truncatedStream => 2
  | .invalidHeader => 3
  | .invalidBackReference => 4
  | .invalidQValue => 5
  | .roundTripMismatch => 6
  | .malformedToken => 7
  | .outputOverflow => 8

/-- The value of `STATUS.DSTATE` (10_state.md R25). -/
def dStateCode : DState → BitVec 3
  | .idle => 0
  | .header => 1
  | .token => 2
  | .zx0Lit => 3
  | .zx0Last => 4
  | .zx0New => 5
  | .done => 6
  | .fault => 7

/-- `STATUS.DONE`: 1 when `d_state = D_DONE` (10_state.md R35). -/
def State.doneFlag (s : State) : Bool := s.dState = .done

/-- `STATUS` (10_state.md R35): `DSTATE` 2:0, `DONE` 3, `FAULT` 4, `ERR` 11:8. -/
def State.status (s : State) : Word :=
  (s.err ++ (0 : BitVec 3) ++ BitVec.ofBool s.fault ++ BitVec.ofBool s.doneFlag ++ dStateCode s.dState).setWidth 32

/-- The codec a code of `CODEC[2:0]` names (10_state.md R33). -/
def codecOf (c : BitVec 3) : Codec :=
  match c.toNat with
  | 0 => .mdkRle
  | 1 => .lzf
  | 2 => .pletter
  | 3 => .dan1
  | 4 => .dan3
  | 5 => .zx7
  | 6 => .zx0
  | _ => .bitBuster

/-- The code of a codec (10_state.md R33). -/
def codecCode : Codec → BitVec 3
  | .mdkRle => 0
  | .lzf => 1
  | .pletter => 2
  | .dan1 => 3
  | .dan3 => 4
  | .zx7 => 5
  | .zx0 => 6
  | .bitBuster => 7

/-- The codec of the job: what `CODEC` names now (notes/assumptions/7.md). -/
def State.jobCodec (s : State) : Codec := codecOf s.codec

/-- The scanner modes of `MS_MODE[1:0]` (10_state.md R34). -/
inductive MsMode where
  | chain | linear | run | reserved
  deriving DecidableEq, Repr

/-- The mode a code names (10_state.md R34). -/
def msModeOf (m : BitVec 2) : MsMode :=
  match m.toNat with
  | 0 => .chain
  | 1 => .linear
  | 2 => .run
  | _ => .reserved

/-- The scanner mode. -/
def State.mode (s : State) : MsMode := msModeOf s.msMode

/-! `OPT` (10_state.md R31). Bits 2, 4 and 5 (`QUICK`, `RLE`, `VERBOSE`) have no effect inside the engine. -/

/-- `OPT.CLASSIC` -/
def State.optClassic (s : State) : Bool := s.opt.getLsbD 0
/-- `OPT.BACKWARDS` -/
def State.optBackwards (s : State) : Bool := s.opt.getLsbD 1
/-- `OPT.DSK2ROM` -/
def State.optDsk2rom (s : State) : Bool := s.opt.getLsbD 3
/-- `OPT.DAN1_SKIP` -/
def State.optDan1Skip (s : State) : Bool := s.opt.getLsbD 6

/-- `MAXINPUT[CODEC]`, no more than `SRC_CAP` (42_scanner.md R182 and its corner cases). -/
def State.maxInput (s : State) : Word :=
  let limit := match s.jobCodec with
    | .mdkRle => s.cfg.maxInputMdk
    | .lzf => s.cfg.maxInputLzf
    | .pletter => s.cfg.maxInputPletter
    | .dan1 => s.cfg.maxInputDan1
    | .dan3 => s.cfg.maxInputDan3
    | .zx7 => s.cfg.maxInputZx7
    | .zx0 => s.cfg.maxInputZx0
    | .bitBuster => s.bbMaxInput
  if limit ≤ s.cfg.srcCap then limit else s.cfg.srcCap

/-- The value of host register `n` (10_state.md R29); a number above 11 reads 0 (30_encoding.md R91), and `OUT_LEN` reads 0 while `FAULT = 1`
(60_exceptions.md R405). -/
def State.reg (s : State) (n : Word) : Word :=
  match n.toNat with
  | 0 => s.codec.setWidth 32
  | 1 => s.opt.setWidth 32
  | 2 => s.srcLen
  | 3 => s.skip
  | 4 => s.msMode.setWidth 32
  | 5 => s.msMaxOff
  | 6 => s.msMaxLen
  | 7 => s.bbMaxInput
  | 8 => s.status
  | 9 => if s.fault then 0 else s.outLen
  | 10 => s.rPos
  | 11 => s.dTokens
  | _ => 0

/-- A host write of register `n` (10_state.md R29): bits a register does not name are not kept, a value register having `VAL_BITS` bits (00_scope.md R7); a write of an `RO` register or
of a number above 11 is ignored (30_encoding.md R91). -/
def State.setReg (s : State) (n v : Word) : State :=
  match n.toNat with
  | 0 => { s with codec := v.setWidth 3 }
  | 1 => { s with opt := v.setWidth 7 }
  | 2 => { s with srcLen := s.cfg.fit v }
  | 3 => { s with skip := s.cfg.fit v }
  | 4 => { s with msMode := v.setWidth 2 }
  | 5 => { s with msMaxOff := s.cfg.fit v }
  | 6 => { s with msMaxLen := s.cfg.fit v }
  | 7 => { s with bbMaxInput := s.cfg.fit v }
  | _ => s

end Sys2Proof.Machine
end

