-- ==== Sys2Proof/Machine/Ops.lean ====
section
/-! DEFINITION. The shared operations: buffers and tables (20_memory.md), taking a fault and leaving the fault state (60_exceptions.md),
the response of a transaction (30_encoding.md R90), the bit reader and the bit writer (40_bitio.md), and the two actions on `OUT`
(43_decoder_common.md R214, R215). Every meaning is built from these. -/

namespace Sys2Proof.Machine

/-! ## Buffers and tables -/

/-- The value listed at an index. -/
def Cells.read {β : Type} : List (Nat × β) → Nat → Option β
  | [], _ => none
  | (k, v) :: r, a => if a = k then some v else Cells.read r a

/-- List a value at an index, in its place. -/
def Cells.write {β : Type} : List (Nat × β) → Nat → β → List (Nat × β)
  | [], a, v => [(a, v)]
  | (k, w) :: r, a, v =>
    if a < k then (a, v) :: (k, w) :: r
    else if a = k then (a, v) :: r
    else (k, w) :: Cells.write r a v

/-- List nothing at an index. -/
def Cells.erase {β : Type} : List (Nat × β) → Nat → List (Nat × β)
  | [], _ => []
  | (k, w) :: r, a => if a = k then r else (k, w) :: Cells.erase r a

/-- Every index listed lies above `a`. -/
def Cells.above {β : Type} (a : Nat) : List (Nat × β) → Bool
  | [] => true
  | (k, _) :: r => a < k && Cells.above a r

/-- The indices rise strictly. -/
def Cells.rising {β : Type} : List (Nat × β) → Bool
  | [] => true
  | (k, _) :: r => Cells.above k r && Cells.rising r

/-- The byte at an index of a buffer, if it holds one. -/
def Memory.read (m : Memory) (a : Nat) : Option Byte := Cells.read m a

/-- Store a byte (20_memory.md R64). -/
def Memory.write (m : Memory) (a : Nat) (v : Byte) : Memory := Cells.write m a v

/-- The canonical form of a buffer. An address not listed holds no value, so no entry can equal what it reads as. -/
def Memory.wf (m : Memory) : Bool := Cells.rising m

/-- The entry of a table, if it holds a value: `TabRead` (20_memory.md R65). -/
def Table.read (t : Table) (a : Nat) : Option Word :=
  match Cells.read t.cells a with
  | some v => some v
  | none => if a < t.span then some t.fill else none

/-- `TabWrite` (20_memory.md R65), keeping the canonical form. -/
def Table.write (t : Table) (a : Nat) (v : Word) : Table :=
  if a < t.span ∧ v = t.fill then { t with cells := Cells.erase t.cells a }
  else { t with cells := Cells.write t.cells a v }

/-- The canonical form of a table. -/
def Table.wf (t : Table) : Bool :=
  Cells.rising t.cells && t.cells.all fun c => !(c.1 < t.span && c.2 == t.fill)

/-- A table all of whose first `n` entries are `v`, as `MS_INIT` leaves it (42_scanner.md R182). -/
def Table.filled (n : Nat) (v : Word) : Table := ⟨n, v, []⟩

/-- `MemRead(SRC, a, 1)` (20_memory.md R63); the byte is free where the host has loaded none (10_state.md R41). -/
def State.srcByte (s : State) (a : Nat) : Byte :=
  (Memory.read s.src a).getD (Config.noValueByte .src s.epoch a)

/-- `MemRead(OUT, a, 1)` (20_memory.md R63); a byte at `out_len` or above holds no value (10_state.md R41). -/
def State.outByte (s : State) (a : Nat) : Byte :=
  if a < s.outLen.toNat then (Memory.read s.out a).getD (Config.noValueByte .out s.epoch a)
  else Config.noValueByte .out s.epoch a

/-- `TabRead(HEAD, a)`; the entry is free where the job has written none (10_state.md R41). -/
def State.headEntry (s : State) (a : Nat) : Word := (s.head.read a).getD (Config.noValueWord .head s.epoch a)

/-- `TabRead(PREV, a)`. -/
def State.prevEntry (s : State) (a : Nat) : Word := (s.prev.read a).getD (Config.noValueWord .prev s.epoch a)

/-- `TabRead(MLEN, a)`. -/
def State.mlenEntry (s : State) (a : Nat) : Word := (s.mlen.read a).getD (Config.noValueWord .mlen s.epoch a)

/-- The scanner tables hold no value any more (10_state.md R41, 60_exceptions.md R409, R412; notes/assumptions/23.md). -/
def State.voidTables (s : State) : State :=
  { s with head := Table.void, prev := Table.void, mlen := Table.void, epoch := s.epoch + 1 }

/-! ## The fault mechanism and the response of a transaction -/

/-- TAKING A FAULT: `raise K` (60_exceptions.md R404). Nothing else changes; what the operation has made of the state so far stays. -/
def State.raise (k : ErrKind) (s : State) : State :=
  { s with err := errCode k, fault := true, dState := .fault }

/-- LEAVING THE FAULT STATE: the prologue `CLEAR_FAULT` (60_exceptions.md R407). The tables of a faulted job are void (R409). -/
def State.clearFault (s : State) : State :=
  if s.fault then
    { s.voidTables with
      dState := .idle, outLen := 0, wMask := 0, wIndex := 0, wBacktrack := false, fault := false, err := 0 }
  else { s with err := 0 }

/-- The response `(ST, N, RES[])` of the transaction (30_encoding.md R90), `ST` being `STATUS` after the operation. -/
def State.answered (res : List Word) (s : State) : State :=
  { s with resp := ⟨s.status, res⟩ }

/-- The end of a transaction: its results, or the fault it has taken with no result words (60_exceptions.md R404), or the model's
own stop. -/
def finish : Res State Fault (List Word) → Host.Outcome State Fault Refusal
  | .ok res s => .next (s.answered res)
  | .raised k s => .next ((s.raise k).answered [])
  | .stuck f => .fault f

/-- An operation of 60_exceptions.md R406: refused while `FAULT = 1`, with no change of state but the response `(ST, 0)`. -/
def operation (body : State → Res State Fault (List Word)) (s : State) : Host.Outcome State Fault Refusal :=
  if s.fault then .next (s.answered []) else finish (body s)

/-- A body that has no result words. -/
def quiet (body : State → Res State Fault Unit) (s : State) : Res State Fault (List Word) :=
  (body s).bind fun _ s => .ok [] s

/-- A result word that is one bit (30_encoding.md R92). -/
def bitWord (b : Bool) : Word := (BitVec.ofBool b).setWidth 32

/-! ## The bit reader BR (40_bitio.md R125 to R130) -/

/-- The registers `BR_INIT` sets (R125). -/
def State.brStart (s : State) : State :=
  { s with rPos := 0, rMask := 0, rIndex := 0, rBacktrack := false, rLast := 0, dMirror := false }

/-- `MemRead(SRC, a, 1)` as the reader makes it: mirrored while `d_mirror = 1` (43_decoder_common.md R223). A byte that does not exist
stops the model: a physical index of `SRC_CAP` or above, and a mirrored read at or above `SRC_LEN`, which has no physical index (DESIGN CHOICE,
notes/assumptions/9.md). -/
def srcRead (a : Word) (s : State) : Res State Fault Byte :=
  if s.dMirror then
    if a < s.srcLen ∧ s.srcLen.toNat - 1 - a.toNat < s.cfg.srcCap.toNat then
      .ok (s.srcByte (s.srcLen.toNat - 1 - a.toNat)) s
    else .stuck .srcBeyondCapacity
  else if a < s.cfg.srcCap then .ok (s.srcByte a.toNat) s
  else .stuck .srcBeyondCapacity

/-- The end of `READ_BIT` (R126): the bit of the open bit byte, and the mask moved on. -/
def readOpenBit (s : State) : Res State Fault Bool :=
  (srcRead s.rIndex s).bind fun v s => .ok (v &&& s.rMask != 0) { s with rMask := s.rMask >>> 1 }

/-- `READ_BIT` (R126). -/
def readBit (s : State) : Res State Fault Bool :=
  if s.rBacktrack then .ok (s.rLast.getLsbD 0) { s with rBacktrack := false }
  else if s.rMask = 0 then
    if s.srcLen ≤ s.rPos then .raised .truncatedStream s
    else readOpenBit { s with rIndex := s.rPos, rPos := s.rPos + 1, rMask := 0x80 }
  else readOpenBit s

/-- `READ_BYTE` (R127). -/
def readByte (s : State) : Res State Fault Byte :=
  if s.srcLen ≤ s.rPos then .raised .truncatedStream s
  else (srcRead s.rPos s).bind fun v s => .ok v { s with rPos := s.rPos + 1, rLast := v }

/-- The machine's port: the token decoder and the gamma readers of Decode.lean fetch through BR. -/
def statePort : Port State Fault where
  bit := readBit
  byte := readByte
  one s := { s with dSubset := s.dSubset + 1 }

/-! ## The bit writer BW (40_bitio.md R120 to R124) and appending to `OUT` -/

/-- The registers `BW_INIT` sets (R120). -/
def State.bwStart (s : State) : State :=
  { s with outLen := 0, wMask := 0, wIndex := 0, wBacktrack := false }

/-- `PUT_BYTE(v)` (43_decoder_common.md R214) and the body of `WRITE_BYTE` (40_bitio.md R122): append, or `OutputOverflow`
(60_exceptions.md R401). -/
def putByte (v : Byte) (s : State) : Res State Fault Unit :=
  if s.cfg.outCap ≤ s.outLen then .raised .outputOverflow s
  else .ok () { s with out := Memory.write s.out s.outLen.toNat v, outLen := s.outLen + 1 }

/-- Set bits of a byte of `OUT` that is already there (20_memory.md R64, backfill). -/
def backfill (a : Word) (bits : Byte) (s : State) : Res State Fault Unit :=
  if a < s.cfg.outCap then
    .ok () { s with out := Memory.write s.out a.toNat (s.outByte a.toNat ||| bits) }
  else .stuck .outBeyondCapacity

/-- The end of `WRITE_BIT` (R121): the bit into the open bit byte, and the mask moved on. -/
def writeOpenBit (b : Bool) (s : State) : Res State Fault Unit :=
  (if b then backfill s.wIndex s.wMask s else .ok () s).bind fun _ s => .ok () { s with wMask := s.wMask >>> 1 }

/-- `WRITE_BIT` (R121), `b` saying whether the operand is not zero. -/
def writeBit (b : Bool) (s : State) : Res State Fault Unit :=
  if s.wBacktrack then
    (if b then backfill (s.outLen - 1) 0x01 s else .ok () s).bind fun _ s => .ok () { s with wBacktrack := false }
  else if s.wMask = 0 then
    (putByte 0x00 s).bind fun _ s => writeOpenBit b { s with wIndex := s.outLen - 1, wMask := 0x80 }
  else writeOpenBit b s

/-- A sequence of `WRITE_BIT`s. -/
def writeAll : List Bool → State → Res State Fault Unit
  | [], s => .ok () s
  | b :: r, s => (writeBit b s).bind fun _ s => writeAll r s

/-- `repeat n times: PUT_BYTE(v)` (44_mdkrle_lzf.md R243). -/
def putRun (v : Byte) : Nat → State → Res State Fault Unit
  | 0, s => .ok () s
  | n + 1, s => (putByte v s).bind fun _ s => putRun v n s

/-- `PUT_BYTE(READ_BYTE)`: a literal (43_decoder_common.md R214). -/
def putLiteral (s : State) : Res State Fault Unit :=
  (readByte s).bind fun v s => putByte v s

/-- `repeat n times: PUT_BYTE(READ_BYTE)`: a literal run, each byte read and written before the next is read (R214). -/
def literalRun : Nat → State → Res State Fault Unit
  | 0, s => .ok () s
  | n + 1, s => (putLiteral s).bind fun _ s => literalRun n s

/-- The loop of `COPY` (R215): each byte is read after every earlier one has been written (20_memory.md R71). -/
def copyLoop (offset : Nat) : Nat → State → Res State Fault Unit
  | 0, s => .ok () s
  | n + 1, s => (putByte (s.outByte (s.outLen.toNat - offset)) s).bind fun _ s => copyLoop offset n s

/-- `COPY(offset, length)` (R215). -/
def copy (offset length : Nat) (s : State) : Res State Fault Unit :=
  if offset < 1 ∨ s.outLen.toNat < offset then .raised .invalidBackReference s
  else copyLoop offset length s

/-! ## The end of a token -/

/-- `d_state <- D_TOKEN` or another state, at the end of a token's rule (43_decoder_common.md R212). -/
def setDState (d : DState) (s : State) : Res State Fault Unit := .ok () { s with dState := d }

/-- A token's body followed by the state it leaves. -/
def thenState (r : Res State Fault Unit) (d : DState) : Res State Fault Unit :=
  r.bind fun _ s => setDState d s

/-- `d_tokens <- d_tokens + 1`, at the end of a `TD_STEP` without a fault (R211). -/
def counted (r : Res State Fault Unit) : Res State Fault Unit :=
  r.bind fun _ s => .ok () { s with dTokens := s.cfg.fit (s.dTokens + 1) }

/-- A token issued by itself: the rest of the `TD_STEP` that has fetched it, the count of R211 included
(notes/assumptions/15.md). -/
def tokenStep (body : State → Res State Fault Unit) (s : State) : Host.Outcome State Fault Refusal :=
  operation (quiet fun s => counted (body s)) s

/-- What the reading of a token depends on, as the machine holds it. `inv` and `bw` are 48_zx0.md's. -/
def State.decodeCtx (s : State) : DecodeCtx :=
  { cfg := s.cfg, q := s.dQ, sentinel := s.dSentinel, subset := s.dSubset,
    inv := !s.optClassic, bw := s.optBackwards }

end Sys2Proof.Machine
end

