-- ==== Sys2Proof/Machine/BitIo.lean ====
section
/-! DEFINITION. The operations of the bit writer and the bit reader (40_bitio.md). -/

namespace Sys2Proof.Machine

/-- `BW_INIT` (R120). -/
def execBwInit (s : State) : Host.Outcome State Fault Refusal :=
  finish (.ok [] s.clearFault.bwStart)

/-- `WRITE_BIT(v)` (R121): only whether `v` is zero matters (notes/assumptions/11.md). -/
def execWriteBit (v : Word) (s : State) : Host.Outcome State Fault Refusal :=
  operation (quiet (writeBit (v != 0))) s

/-- `WRITE_BYTE(v)` (R122). -/
def execWriteByte (v : Word) (s : State) : Host.Outcome State Fault Refusal :=
  operation (quiet (putByte (v.setWidth 8))) s

/-- `WRITE_BITS(value, size)` (R123): the value is `VAL_BITS` wide. -/
def execWriteBits (value size : Word) (s : State) : Host.Outcome State Fault Refusal :=
  operation (quiet fun s =>
    if 32 < size then .raised .malformedToken s else writeAll (bitsOf (s.cfg.fit value) size.toNat) s) s

/-- `W_SET_BACKTRACK` (R124). -/
def execWSetBacktrack (s : State) : Host.Outcome State Fault Refusal :=
  operation (quiet fun s =>
    if s.outLen = 0 then .raised .malformedToken s else .ok () { s with wBacktrack := true }) s

/-- `FLUSH` (R131): for the normative writer it does nothing. -/
def execFlush (s : State) : Host.Outcome State Fault Refusal :=
  operation (quiet fun s => .ok () s) s

/-- `BR_INIT` (R125). -/
def execBrInit (s : State) : Host.Outcome State Fault Refusal :=
  finish (.ok [] s.clearFault.brStart)

/-- `READ_BIT` (R126). -/
def execReadBit (s : State) : Host.Outcome State Fault Refusal :=
  operation (fun s => (readBit s).map fun b => [bitWord b]) s

/-- `READ_BYTE` (R127). -/
def execReadByte (s : State) : Host.Outcome State Fault Refusal :=
  operation (fun s => (readByte s).map fun v => [v.setWidth 32]) s

/-- `READ_BITS(size)` (R128). -/
def execReadBits (size : Word) (s : State) : Host.Outcome State Fault Refusal :=
  operation (fun s =>
    if 32 < size then .raised .malformedToken s
    else (readField statePort size.toNat s).map fun v => [v]) s

/-- `R_SET_BACKTRACK` (R130). -/
def execRSetBacktrack (s : State) : Host.Outcome State Fault Refusal :=
  operation (quiet fun s => .ok () { s with rBacktrack := true }) s

end Sys2Proof.Machine
end

