-- ==== Sys2Proof/Machine/Operands.lean ====
section
/-! DEFINITION. Operand assembly (30_encoding.md R106): the length and the offset a token's fields stand for. Every field is
unsigned; lengths and offsets are numbers, so that no sum of a bias wraps (41_gamma.md R167, R169). -/

namespace Sys2Proof.Machine

/-- Length of `MDK.RAW` and of `MDK.RLE` (R97): `C[6:0] + 1`. -/
def mdkLength (c : BitVec 7) : Nat := c.toNat + 1

/-- Length of `LZF.LRUN` (R98). -/
def lzfRunLength (n : BitVec 5) : Nat := n.toNat + 1

/-- Length of `LZF.SHORT` (R98): the control values from 1 on stand for `LZF_MINMATCH` and up. -/
def lzfShortLength (control : BitVec 3) : Nat := control.toNat + (Params.lzfMinMatch - 1)

/-- Length of `LZF.LONG` (R98): one more than `LZF_SHORT_MAXLEN` and up. -/
def lzfLongLength (len9 : Byte) : Nat := len9.toNat + (Params.lzfShortMaxLen + 1)

/-- Offset of both LZF matches (R98): `((B[4:0] << 8) | lo) + 1`. -/
def lzfOffset (hi : BitVec 5) (lo : Byte) : Nat := (hi ++ lo).toNat + 1

/-- Length of `PLT.MATCH` (R99): `IG(ℓ − 1)`. -/
def pltLength (g : Word) : Nat := g.toNat + 1

/-- Offset of `PLT.MATCH` (R99, 45_pletter.md R276). -/
def pltOffset (bo : Byte) (extra : BitVec 6) : Nat :=
  if bo < 128 then bo.toNat + 1 else (extra ++ bo.setWidth 7).toNat + 1

/-- Offset of a DAN1 match, by tier (R100, R101): the field and the tier's base, less none. -/
def dan1Offset : Dan1Offset → Nat
  | .tier1 u => u.toNat + Params.dan1Bound 0 + 1
  | .tier2 u => u.toNat + Params.dan1Bound 1 + 1
  | .tier3 v => v.toNat + Params.dan1Bound 2 + 1
  | .tier4 hi lo => (hi ++ lo).toNat + Params.dan1Bound 3 + 1

/-- Length of `DAN1.RAW` (R100). -/
def dan1RawLength (n27 : Byte) : Nat := n27.toNat + Params.dan1RawMin

/-- Offset of a DAN3 match (R102, 46_dan1_dan3.md R316, R317). -/
def dan3Offset : Dan3Offset → Nat
  | .one => 1
  | .two u => u.toNat + 2
  | .tierA u => u.toNat + 1
  | .tierB v => v.toNat + 33
  | .tierC hi lo => (hi ++ lo).toNat + 289

/-- Length of `DAN3.RAW` (R102). -/
def dan3RawLength (n1 : Byte) : Nat := n1.toNat + 1

/-- Length of `ZX7.MATCH` (R103). -/
def zx7Length (g : Word) : Nat := g.toNat + 1

/-- Offset of `ZX7.MATCH` (R103, 47_zx7.md R335): the long form is biased by 129. -/
def zx7Offset (bo : Byte) (high : BitVec 4) : Nat :=
  if bo < 128 then bo.toNat + 1 else (high ++ bo.setWidth 7).toNat + 129

/-- Offset of `ZX0.MATCH` (R104, 48_zx0.md R356): `msb·128 − (Bo >> 1)`. -/
def zx0Offset (msb : Word) (bo : Byte) : Word := (msb <<< 7) - (bo >>> 1).setWidth 32

/-- Distance of `BB.MATCH` (R105, 49_bitbuster.md R382). -/
def bbDistance (d : Byte) (hi : BitVec 4) : Nat :=
  if d < 128 then d.toNat + 1 else (hi ++ d.setWidth 7).toNat + 1

/-- Length of `BB.MATCH` (R105): `BBG(ℓ − 2)`. -/
def bbLength (g : Word) : Nat := g.toNat + 2

end Sys2Proof.Machine
end

