-- ==== Sys2Proof/Machine/BitBuster.lean ====
section
/-! DEFINITION. The elements of BitBuster (49_bitbuster.md R381 to R388). -/

namespace Sys2Proof.Machine

/-- `BB.LEN` (R381): the four bytes are compared before the register takes its `VAL_BITS` bits of them. -/
def bbLen (n : Word) (s : State) : Res State Fault Unit :=
  let s := { s with dHdrLen := s.cfg.fit n }
  if s.bbMaxInput < n then .raised .invalidHeader s
  else setDState (if n = 0 then .done else .token) s

/-- `BB.LIT` (R383). -/
def bbLit (value : Byte) (s : State) : Res State Fault Unit := thenState (putByte value s) .token

/-- `BB.MATCH` (R384). -/
def bbMatch (d : Byte) (hi : BitVec 4) (g : Word) (s : State) : Res State Fault Unit :=
  thenState (copy (bbDistance d hi) (bbLength g) s) .token

/-- `BB.END` (R386, R388). -/
def bbEnd (s : State) : Res State Fault Unit :=
  if s.outLen ≠ s.dHdrLen then .raised .invalidHeader s else setDState .done s

def execBbLen (n : Word) (s : State) : Host.Outcome State Fault Refusal := tokenStep (bbLen n) s

def execBbLit (value : Byte) (s : State) : Host.Outcome State Fault Refusal := tokenStep (bbLit value) s

def execBbMatch (d : Byte) (hi : BitVec 4) (g : Word) (s : State) : Host.Outcome State Fault Refusal :=
  tokenStep (bbMatch d hi g) s

def execBbEnd (s : State) : Host.Outcome State Fault Refusal := tokenStep bbEnd s

end Sys2Proof.Machine
end

