-- ==== Sys2Proof/Machine/Dan1.lean ====
section
/-! DEFINITION. The elements of DAN1 (46_dan1_dan3.md R291 to R298). -/

namespace Sys2Proof.Machine

/-- `DAN1.FIRST` (R291). -/
def dan1First (value : Byte) (s : State) : Res State Fault Unit := thenState (putByte value s) .token

/-- `DAN1.LIT` (R293). -/
def dan1Lit (value : Byte) (s : State) : Res State Fault Unit := thenState (putByte value s) .token

/-- `DAN1.MATCH` (R294, R297). -/
def dan1Match (len : Word) (off : Dan1Offset) (s : State) : Res State Fault Unit :=
  thenState (copy (dan1Offset off) len.toNat s) .token

/-- `DAN1.RAW` (R296). -/
def dan1Raw (n27 : Byte) (s : State) : Res State Fault Unit :=
  thenState (literalRun (dan1RawLength n27) s) .token

/-- `DAN1.END` (R298). -/
def dan1End (s : State) : Res State Fault Unit := setDState .done s

def execDan1First (value : Byte) (s : State) : Host.Outcome State Fault Refusal := tokenStep (dan1First value) s

def execDan1Lit (value : Byte) (s : State) : Host.Outcome State Fault Refusal := tokenStep (dan1Lit value) s

def execDan1Match (len : Word) (off : Dan1Offset) (s : State) : Host.Outcome State Fault Refusal :=
  tokenStep (dan1Match len off) s

def execDan1Raw (n27 : Byte) (s : State) : Host.Outcome State Fault Refusal := tokenStep (dan1Raw n27) s

def execDan1End (s : State) : Host.Outcome State Fault Refusal := tokenStep dan1End s

end Sys2Proof.Machine
end

