-- ==== Sys2Proof/Machine/Dan3.lean ====
section
/-! DEFINITION. The elements of DAN3 (46_dan1_dan3.md R311 to R319). -/

namespace Sys2Proof.Machine

/-- `DAN3.SUBSET` (R311). -/
def dan3Subset (subset : BitVec 3) (s : State) : Res State Fault Unit := .ok () { s with dSubset := subset }

/-- `DAN3.FIRST` (R311). -/
def dan3First (value : Byte) (s : State) : Res State Fault Unit := thenState (putByte value s) .token

/-- `DAN3.LIT` (R314). -/
def dan3Lit (value : Byte) (s : State) : Res State Fault Unit := thenState (putByte value s) .token

/-- `DAN3.MATCH` (R315 to R317). -/
def dan3Match (len : Word) (off : Dan3Offset) (s : State) : Res State Fault Unit :=
  thenState (copy (dan3Offset off) len.toNat s) .token

/-- `DAN3.RAW` (R318). -/
def dan3Raw (n1 : Byte) (s : State) : Res State Fault Unit :=
  thenState (literalRun (dan3RawLength n1) s) .token

/-- `DAN3.END` (R319). -/
def dan3End (s : State) : Res State Fault Unit := setDState .done s

/-- `DAN3.SUBSET` is the first part of a header step and is not counted by itself (notes/assumptions/15.md). -/
def execDan3Subset (subset : BitVec 3) (s : State) : Host.Outcome State Fault Refusal :=
  operation (quiet (dan3Subset subset)) s

def execDan3First (value : Byte) (s : State) : Host.Outcome State Fault Refusal := tokenStep (dan3First value) s

def execDan3Lit (value : Byte) (s : State) : Host.Outcome State Fault Refusal := tokenStep (dan3Lit value) s

def execDan3Match (len : Word) (off : Dan3Offset) (s : State) : Host.Outcome State Fault Refusal :=
  tokenStep (dan3Match len off) s

def execDan3Raw (n1 : Byte) (s : State) : Host.Outcome State Fault Refusal := tokenStep (dan3Raw n1) s

def execDan3End (s : State) : Host.Outcome State Fault Refusal := tokenStep dan3End s

end Sys2Proof.Machine
end

