-- ==== Sys2Proof/Machine/Lzf.lean ====
section
/-! DEFINITION. The tokens of LZF (44_mdkrle_lzf.md R250 to R253). `MaxOffset` is not checked (R250 b). -/

namespace Sys2Proof.Machine

/-- `LZF.LRUN` (R253). -/
def lzfLrun (n : BitVec 5) (s : State) : Res State Fault Unit :=
  thenState (literalRun (lzfRunLength n) s) .token

/-- `LZF.SHORT` (R250). -/
def lzfShort (control : BitVec 3) (hi : BitVec 5) (lo : Byte) (s : State) : Res State Fault Unit :=
  thenState (copy (lzfOffset hi lo) (lzfShortLength control) s) .token

/-- `LZF.LONG` (R251). -/
def lzfLong (hi : BitVec 5) (len9 lo : Byte) (s : State) : Res State Fault Unit :=
  thenState (copy (lzfOffset hi lo) (lzfLongLength len9) s) .token

/-- `LZF.END` (R252). -/
def lzfEnd (s : State) : Res State Fault Unit := setDState .done s

def execLzfLrun (n : BitVec 5) (s : State) : Host.Outcome State Fault Refusal := tokenStep (lzfLrun n) s

def execLzfShort (control : BitVec 3) (hi : BitVec 5) (lo : Byte) (s : State) : Host.Outcome State Fault Refusal :=
  tokenStep (lzfShort control hi lo) s

def execLzfLong (hi : BitVec 5) (len9 lo : Byte) (s : State) : Host.Outcome State Fault Refusal :=
  tokenStep (lzfLong hi len9 lo) s

def execLzfEnd (s : State) : Host.Outcome State Fault Refusal := tokenStep lzfEnd s

end Sys2Proof.Machine
end

