-- ==== Sys2Proof/Machine/MdkRle.lean ====
section
/-! DEFINITION. The tokens of MDK-RLE (44_mdkrle_lzf.md R242 to R244). -/

namespace Sys2Proof.Machine

/-- `MDK.RAW` (R242). -/
def mdkRaw (c : BitVec 7) (s : State) : Res State Fault Unit :=
  thenState (literalRun (mdkLength c) s) .token

/-- `MDK.RLE` (R243). -/
def mdkRle (c : BitVec 7) (value : Byte) (s : State) : Res State Fault Unit :=
  thenState (putRun value (mdkLength c) s) .token

/-- `MDK.END` (R244). -/
def mdkEnd (s : State) : Res State Fault Unit := setDState .done s

def execMdkRaw (c : BitVec 7) (s : State) : Host.Outcome State Fault Refusal := tokenStep (mdkRaw c) s

def execMdkRle (c : BitVec 7) (value : Byte) (s : State) : Host.Outcome State Fault Refusal :=
  tokenStep (mdkRle c value) s

def execMdkEnd (s : State) : Host.Outcome State Fault Refusal := tokenStep mdkEnd s

end Sys2Proof.Machine
end

