-- ==== Sys2Proof/Machine/Pletter.lean ====
section
/-! DEFINITION. The elements of Pletter (45_pletter.md R272 to R277). -/

namespace Sys2Proof.Machine

/-- `PLT.Q` (R272), `u` being `q − 1`: the value 7 names no `q`. -/
def pltQ (u : BitVec 3) (s : State) : Res State Fault Unit :=
  if u = 7 then .raised .invalidQValue s
  else .ok () { s with dQ := u + 1, dSentinel := s.cfg.fit s.cfg.pletterSentinel }

/-- What the header sets under `dsk2rom`, where it reads no `PLT.Q` (R272). -/
def State.pltDsk2rom (s : State) : State :=
  { s with dQ := 2, dSentinel := s.cfg.fit Params.pletterDsk2romSentinel }

/-- `PLT.FIRST` (R272). -/
def pltFirst (value : Byte) (s : State) : Res State Fault Unit := thenState (putByte value s) .token

/-- `PLT.LIT` (R275). -/
def pltLit (value : Byte) (s : State) : Res State Fault Unit := thenState (putByte value s) .token

/-- `PLT.MATCH` (R276). -/
def pltMatch (g : Word) (bo : Byte) (extra : BitVec 6) (s : State) : Res State Fault Unit :=
  thenState (copy (pltOffset bo extra) (pltLength g) s) .token

/-- `PLT.END` (R277). -/
def pltEnd (s : State) : Res State Fault Unit := setDState .done s

/-- `PLT.Q` is the first part of a header step and is not counted by itself (notes/assumptions/15.md). -/
def execPltQ (u : BitVec 3) (s : State) : Host.Outcome State Fault Refusal := operation (quiet (pltQ u)) s

def execPltFirst (value : Byte) (s : State) : Host.Outcome State Fault Refusal := tokenStep (pltFirst value) s

def execPltLit (value : Byte) (s : State) : Host.Outcome State Fault Refusal := tokenStep (pltLit value) s

def execPltMatch (g : Word) (bo : Byte) (extra : BitVec 6) (s : State) : Host.Outcome State Fault Refusal :=
  tokenStep (pltMatch g bo extra) s

def execPltEnd (s : State) : Host.Outcome State Fault Refusal := tokenStep pltEnd s

end Sys2Proof.Machine
end

