-- ==== Sys2Proof/Machine/Zx0.lean ====
section
/-! DEFINITION. The tokens of ZX0 (48_zx0.md R351 to R360). -/

namespace Sys2Proof.Machine

/-- The state bit (R351): 1 leads to `D_ZX0_NEW`, 0 to `other`. -/
def zx0StateBit (other : DState) (s : State) : Res State Fault Unit :=
  (readBit s).bind fun b s => setDState (if b then .zx0New else other) s

/-- `ZX0.LITS` (R354). -/
def zx0Lits (n : Word) (s : State) : Res State Fault Unit :=
  (literalRun n.toNat s).bind fun _ s => zx0StateBit .zx0Last s

/-- `ZX0.REP` (R355). -/
def zx0Rep (len : Word) (s : State) : Res State Fault Unit :=
  (copy s.dLastOffset.toNat len.toNat s).bind fun _ s => zx0StateBit .zx0Lit s

/-- The length of a new-offset match, whose gamma begins with `Bo[0]` (R356); one of more than `VAL_BITS` bits raises (41_gamma.md R169). -/
def zx0MatchLength (s : State) : Res State Fault Nat :=
  (igReadCode statePort s.cfg 0 false s.optBackwards s).bind fun g s =>
    match g with
    | none => .raised .malformedToken s
    | some g => if 2 ^ s.cfg.valueBits ≤ g.toNat + 1 then .raised .malformedToken s else .ok (g.toNat + 1) s

/-- `ZX0.MATCH` (R356): from the offset on; the offset byte has just been read, so `r_last` is `bo`. -/
def zx0Match (msb : Word) (bo : Byte) (s : State) : Res State Fault Unit :=
  (zx0MatchLength { s with dLastOffset := s.cfg.fit (zx0Offset msb bo), rBacktrack := true }).bind fun length s =>
    (copy s.dLastOffset.toNat length s).bind fun _ s => zx0StateBit .zx0Lit s

/-- Exchange `OUT[a]` and `OUT[out_len − 1 − a]` (43_decoder_common.md R218). -/
def State.exchange (a : Nat) (s : State) : State :=
  let b := s.outLen.toNat - 1 - a
  { s with out := Memory.write (Memory.write s.out a (s.outByte b)) b (s.outByte a) }

/-- The exchanges for `a` from 0 to `n − 1`, in this order. -/
def State.exchanges : Nat → State → State
  | 0, s => s
  | n + 1, s => (State.exchanges n s).exchange n

/-- Reverse `OUT[0..out_len−1]` in place (R360, 43_decoder_common.md R218). -/
def State.reverseOut (s : State) : State := State.exchanges (s.outLen.toNat / 2) s

/-- `ZX0.END` (R356). -/
def zx0End (s : State) : Res State Fault Unit :=
  setDState .done (if s.dMirror then s.reverseOut else s)

def execZx0Lits (n : Word) (s : State) : Host.Outcome State Fault Refusal := tokenStep (zx0Lits n) s

def execZx0Rep (len : Word) (s : State) : Host.Outcome State Fault Refusal := tokenStep (zx0Rep len) s

def execZx0Match (msb : Word) (bo : Byte) (s : State) : Host.Outcome State Fault Refusal :=
  tokenStep (zx0Match msb bo) s

def execZx0End (s : State) : Host.Outcome State Fault Refusal := tokenStep zx0End s

end Sys2Proof.Machine
end

