-- ==== Sys2Proof/Machine/Zx7.lean ====
section
/-! DEFINITION. The elements of ZX7 (47_zx7.md R331 to R336). -/

namespace Sys2Proof.Machine

/-- `ZX7.FIRST` (R331). -/
def zx7First (value : Byte) (s : State) : Res State Fault Unit := thenState (putByte value s) .token

/-- `ZX7.LIT` (R333). -/
def zx7Lit (value : Byte) (s : State) : Res State Fault Unit := thenState (putByte value s) .token

/-- `ZX7.MATCH` (R334, R335). -/
def zx7Match (g : Word) (bo : Byte) (high : BitVec 4) (s : State) : Res State Fault Unit :=
  thenState (copy (zx7Offset bo high) (zx7Length g) s) .token

/-- `ZX7.END` (R336). -/
def zx7End (s : State) : Res State Fault Unit := setDState .done s

def execZx7First (value : Byte) (s : State) : Host.Outcome State Fault Refusal := tokenStep (zx7First value) s

def execZx7Lit (value : Byte) (s : State) : Host.Outcome State Fault Refusal := tokenStep (zx7Lit value) s

def execZx7Match (g : Word) (bo : Byte) (high : BitVec 4) (s : State) : Host.Outcome State Fault Refusal :=
  tokenStep (zx7Match g bo high) s

def execZx7End (s : State) : Host.Outcome State Fault Refusal := tokenStep zx7End s

end Sys2Proof.Machine
end

