-- ==== Sys2Proof/Machine/Decoder.lean ====
section
/-! DEFINITION. The token decoder TD: `TD_START`, `TD_STEP`, `TD_RUN` (43_decoder_common.md). -/

namespace Sys2Proof.Machine

/-- The registers a decode job starts with (R210); those of BW other than `out_len` stay (notes/assumptions/18.md). -/
def State.tdStarted (s : State) : State :=
  { s.brStart with
    outLen := 0
    dLastOffset := s.cfg.fit s.cfg.zx0InitialOffset
    dQ := 0, dSubset := 0, dSentinel := 0, dHdrLen := 0, dTokens := 0
    dMirror := s.jobCodec = .zx0 && s.optBackwards
    dState := .header }

/-- The body of `TD_START` (R210). -/
def tdStart (s : State) : Res State Fault (List Word) :=
  let s := s.clearFault.tdStarted
  if s.cfg.srcCap < s.srcLen then .raised .inputTooLarge s else .ok [] s

/-- `TD_START` (R210). -/
def execTdStart (s : State) : Host.Outcome State Fault Refusal := finish (tdStart s)

/-- The rule of a token, run on the state in which the decoder has just read its fields (R217). A command is no token. -/
def runToken (i : Instr) (s : State) : Res State Fault Unit :=
  match i with
  | .reset | .regRead _ | .regWrite _ _ | .abort | .srcWrite _ _ | .outRead _ | .mlenRead _ => .stuck .notAToken
  | .bwInit | .writeBit _ | .writeByte _ | .writeBits _ _ | .wSetBacktrack | .flush => .stuck .notAToken
  | .brInit | .readBit | .readByte | .readBits _ | .rSetBacktrack => .stuck .notAToken
  | .egWrite _ | .egRead _ | .igWrite _ _ | .igRead _ _ | .bbgWrite _ | .bbgRead | .gammaBits _ => .stuck .notAToken
  | .msInit | .msInsert _ | .msWalk _ | .msLinear _ | .msStepRun => .stuck .notAToken
  | .tdStart | .tdStep | .tdRun => .stuck .notAToken
  | .mdkRaw c => mdkRaw c s
  | .mdkRle c v => mdkRle c v s
  | .mdkEnd => mdkEnd s
  | .lzfLrun n => lzfLrun n s
  | .lzfShort control hi lo => lzfShort control hi lo s
  | .lzfLong hi len9 lo => lzfLong hi len9 lo s
  | .lzfEnd => lzfEnd s
  | .pltQ u => pltQ u s
  | .pltFirst v => pltFirst v s
  | .pltLit v => pltLit v s
  | .pltMatch g bo extra => pltMatch g bo extra s
  | .pltEnd => pltEnd s
  | .dan1First v => dan1First v s
  | .dan1Lit v => dan1Lit v s
  | .dan1Match len off => dan1Match len off s
  | .dan1Raw n27 => dan1Raw n27 s
  | .dan1End => dan1End s
  | .dan3Subset subset => dan3Subset subset s
  | .dan3First v => dan3First v s
  | .dan3Lit v => dan3Lit v s
  | .dan3Match len off => dan3Match len off s
  | .dan3Raw n1 => dan3Raw n1 s
  | .dan3End => dan3End s
  | .zx7First v => zx7First v s
  | .zx7Lit v => zx7Lit v s
  | .zx7Match g bo high => zx7Match g bo high s
  | .zx7End => zx7End s
  | .zx0Lits n => zx0Lits n s
  | .zx0Rep len => zx0Rep len s
  | .zx0Match msb bo => zx0Match msb bo s
  | .zx0End => zx0End s
  | .bbLen n => bbLen n s
  | .bbLit v => bbLit v s
  | .bbMatch d hi g => bbMatch d hi g s
  | .bbEnd => bbEnd s

/-- Fetch an element through the reader and decode it. -/
def fetchElement (e : Element) (s : State) : Res State Fault Instr :=
  decodeElement statePort s.decodeCtx e s

/-- Fetch, decode and execute one element (R211). -/
def runElement (e : Element) (s : State) : Res State Fault Unit :=
  (fetchElement e s).bind fun i s => runToken i s

/-- `TOKEN[CODEC]` (R217); ZX0's by `d_state` (48_zx0.md R350). Where `CODEC` has become ZX0 in another codec's job there is none
(notes/assumptions/8.md). -/
def State.tokenElement (s : State) : Except Fault Element :=
  match s.jobCodec with
  | .mdkRle => .ok .mdkToken
  | .lzf => .ok .lzfToken
  | .pletter => .ok .pltToken
  | .dan1 => .ok .dan1Token
  | .dan3 => .ok .dan3Token
  | .zx7 => .ok .zx7Token
  | .bitBuster => .ok .bbToken
  | .zx0 =>
    match s.dState with
    | .zx0Lit => .ok .zx0Lits
    | .zx0Last => .ok .zx0Rep
    | .zx0New => .ok .zx0New
    | .idle | .header | .token | .done | .fault => .error .codecChangedInJob

/-- One token (R211). -/
def tokenBody (s : State) : Res State Fault Unit :=
  match s.tokenElement with
  | .ok e => runElement e s
  | .error f => .stuck f

/-- `HEADER[CODEC]`, and for the codecs without one the first token in the same step (R211, R217). -/
def headerBody (s : State) : Res State Fault Unit :=
  match s.jobCodec with
  | .mdkRle => tokenBody { s with dState := .token }
  | .lzf => tokenBody { s with dState := .token }
  | .zx0 => tokenBody { s with dState := .zx0Lit }
  | .pletter =>
    (if s.optDsk2rom then .ok () s.pltDsk2rom else runElement .pltQ s).bind fun _ s => runElement .pltFirst s
  | .dan1 => runElement .dan1First s
  | .dan3 => (runElement .dan3Subset { s with dSubset := 0 }).bind fun _ s => runElement .dan3First s
  | .zx7 => runElement .zx7First s
  | .bitBuster => runElement .bbLen s

/-- The codecs whose empty stream is legal (R216). -/
def emptyStreamLegal : Codec → Bool
  | .lzf | .pletter | .dan1 | .dan3 | .zx7 | .zx0 => true
  | .mdkRle | .bitBuster => false

/-- The body of `TD_STEP` (R211). -/
def tdStep (s : State) : Res State Fault Unit :=
  match s.dState with
  | .idle => .raised .malformedToken s
  | .done => .ok () s
  | .fault => .ok () s
  | .header =>
    if s.srcLen = 0 ∧ emptyStreamLegal s.jobCodec = true then setDState .done s else counted (headerBody s)
  | .token => counted (tokenBody s)
  | .zx0Lit => counted (tokenBody s)
  | .zx0Last => counted (tokenBody s)
  | .zx0New => counted (tokenBody s)

/-- `TD_STEP` (R211). -/
def execTdStep (s : State) : Host.Outcome State Fault Refusal := operation (quiet tdStep) s

/-- The loop of `TD_RUN` (R213), with a bound on its steps. -/
def tdLoop : Nat → State → Res State Fault Unit
  | 0, _ => .stuck .runDidNotEnd
  | n + 1, s =>
    if s.dState = .done ∨ s.dState = .fault then .ok () s else (tdStep s).bind fun _ s => tdLoop n s

/-- More steps than a job can have: each consumes a bit or a byte (R213, R220, 70_reset_and_hazards.md R460). -/
def State.stepBound (s : State) : Nat := 8 * s.srcLen.toNat + 16

/-- The body of `TD_RUN` (R213). -/
def tdRun (s : State) : Res State Fault Unit :=
  if s.dState = .idle then .raised .malformedToken s else tdLoop s.stepBound s

/-- `TD_RUN` (R213). -/
def execTdRun (s : State) : Host.Outcome State Fault Refusal := operation (quiet tdRun) s

end Sys2Proof.Machine
end

