-- ==== Sys2Proof/Machine/Gamma.lean ====
section
/-! DEFINITION. The operations of the Elias-gamma unit (41_gamma.md). The codes themselves are in Decode.lean. -/

namespace Sys2Proof.Machine

/-- The two result words of a gamma reader: value and sentinel flag (30_encoding.md R92). -/
def gammaResult : Option Word → List Word
  | some v => [v, 0]
  | none => [0, 1]

/-- `EG_WRITE(value)` (R151). -/
def execEgWrite (value : Word) (s : State) : Host.Outcome State Fault Refusal :=
  operation (quiet fun s =>
    if value = 0 then .raised .malformedToken s else writeAll (egCode value) s) s

/-- `EG_READ(limit)` (R153): 0 is taken as 32, a limit above 32 raises (notes/assumptions/12.md). -/
def execEgRead (limit : Word) (s : State) : Host.Outcome State Fault Refusal :=
  operation (fun s => (egReadCode statePort s.cfg limit.toNat s).map gammaResult) s

/-- `IG_WRITE(value, inverted, backwards)` (R158): the flags are `B[0]` and `B[1]`. -/
def execIgWrite (value flags : Word) (s : State) : Host.Outcome State Fault Refusal :=
  operation (quiet fun s =>
    if value = 0 then .raised .malformedToken s
    else writeAll (igCode s.cfg (flags.getLsbD 0) (flags.getLsbD 1) value) s) s

/-- `IG_READ(sentinel, inverted, backwards)` (R160). -/
def execIgRead (sentinel flags : Word) (s : State) : Host.Outcome State Fault Refusal :=
  operation (fun s =>
    (igReadCode statePort s.cfg sentinel (flags.getLsbD 0) (flags.getLsbD 1) s).map gammaResult) s

/-- `BBG_WRITE(value)` (R163): 65535 and above would need the end run. -/
def execBbgWrite (value : Word) (s : State) : Host.Outcome State Fault Refusal :=
  operation (quiet fun s =>
    if 65535 ≤ value then .raised .malformedToken s else writeAll (bbgCode value) s) s

/-- `BBG_READ` (R164). -/
def execBbgRead (s : State) : Host.Outcome State Fault Refusal :=
  operation (fun s => (bbgReadCode statePort s.cfg s).map gammaResult) s

/-- `GAMMA_BITS(value)` (R166). -/
def execGammaBits (value : Word) (s : State) : Host.Outcome State Fault Refusal :=
  operation (fun s =>
    if value = 0 then .raised .malformedToken s
    else .ok [BitVec.ofNat 32 (gammaBitsOf value.toNat)] s) s

end Sys2Proof.Machine
end

