-- ==== Sys2Proof/Machine/HostPort.lean ====
section
/-! DEFINITION. The host's own operations: `RESET` (70_reset_and_hazards.md R440), `ABORT` (60_exceptions.md R412), and access to registers and
buffers (30_encoding.md R91). All of them are allowed while `FAULT = 1` (60_exceptions.md R406, R407). -/

namespace Sys2Proof.Machine

/-- `RESET` (R440): the state after power-on; the parameters are the instance's, and what the buffers and tables hold is
unspecified anew (R441). -/
def execReset (s : State) : Host.Outcome State Fault Refusal :=
  finish (.ok [] { State.reset with
    cfg := s.cfg, cmds := s.cmds, epoch := s.epoch + 1, draws := s.draws
    bbMaxInput := s.cfg.fit Params.bbMaxInputReset })

/-- `REG_READ` (30_encoding.md R91). -/
def execRegRead (reg : Word) (s : State) : Host.Outcome State Fault Refusal :=
  finish (.ok [s.reg reg] s)

/-- `REG_WRITE` (30_encoding.md R91). -/
def execRegWrite (reg value : Word) (s : State) : Host.Outcome State Fault Refusal :=
  finish (.ok [] (s.setReg reg value))

/-- The registers `ABORT` clears (60_exceptions.md R412); the tables hold no value afterwards. -/
def State.aborted (s : State) : State :=
  { s.voidTables with
    fault := false, err := 0, dState := .idle
    outLen := 0, wMask := 0, wIndex := 0, wBacktrack := false
    rPos := 0, rMask := 0, rIndex := 0, rBacktrack := false, rLast := 0, dMirror := false
    dTokens := 0, sPos := 0 }

/-- `ABORT` (60_exceptions.md R412). -/
def execAbort (s : State) : Host.Outcome State Fault Refusal :=
  finish (.ok [] s.aborted)

/-- `SRC_WRITE` (30_encoding.md R91); an index that does not exist stops the model (notes/assumptions/9.md). -/
def execSrcWrite (index value : Word) (s : State) : Host.Outcome State Fault Refusal :=
  finish (if index < s.cfg.srcCap then
      .ok [] { s with src := Memory.write s.src index.toNat (value.setWidth 8) }
    else .stuck .srcBeyondCapacity)

/-- A result that no rule specifies (10_state.md R41, 60_exceptions.md R405; notes/assumptions/6.md). -/
def unspecified (s : State) : Res State Fault (List Word) :=
  .ok [Config.freeWord s.draws] { s with draws := s.draws + 1 }

/-- `OUT_READ` (30_encoding.md R91). -/
def execOutRead (index : Word) (s : State) : Host.Outcome State Fault Refusal :=
  finish (if index < s.outLen ∧ s.fault = false then .ok [(s.outByte index.toNat).setWidth 32] s
    else unspecified s)

/-- `MLEN_READ` (30_encoding.md R91): an entry of 1 to `MS_MAXOFF` of a job in `RUN` mode; anything else is unspecified
(60_exceptions.md R405; notes/assumptions/20.md). -/
def execMlenRead (offset : Word) (s : State) : Host.Outcome State Fault Refusal :=
  finish (match s.mlen.read offset.toNat with
    | some v => if s.fault = false ∧ s.mode = .run ∧ 1 ≤ offset ∧ offset ≤ s.msMaxOff then .ok [v] s else unspecified s
    | none => unspecified s)

end Sys2Proof.Machine
end

