-- ==== Sys2Proof/Machine/Scanner.lean ====
section
/-! DEFINITION. The match scanner MS (42_scanner.md). Positions and offsets are numbers; entries of the tables are words, read as
unsigned, `NIL` being `Config.nil` (notes/assumptions/21.md). -/

namespace Sys2Proof.Machine

/-- An `MS_*` operation in a mode it is not legal in raises `MalformedToken` and changes nothing (R181). -/
def inMode (m : MsMode) (body : State → Res State Fault (List Word)) (s : State) : Res State Fault (List Word) :=
  if s.mode = m then body s else .raised .malformedToken s

/-- The configuration `MS_INIT` accepts (R182). -/
def State.scanConfigured (s : State) : Bool :=
  s.mode ≠ .reserved ∧ s.msMaxOff ≠ 0 ∧ s.msMaxOff ≤ s.cfg.srcCap ∧ s.msMaxLen ≠ 0

/-- The registers and tables a scan job starts with (R182). An entry `MS_INIT` does not write is one the new job has not written, so it
holds no value (10_state.md R41), whatever an earlier job left there; `PREV` is such a table in every mode (R40: what it holds is left, and no walk
reaches it before `MS_INSERT` has written it; notes/assumptions/23.md). -/
def State.scanStart (s : State) : State :=
  { s.voidTables with
    sPos := 0
    head := if s.mode = .chain then Table.filled Params.keys s.cfg.nil else Table.void
    mlen := if s.mode = .run then Table.filled (s.msMaxOff.toNat + 1) 0 else Table.void }

/-- The body of `MS_INIT` after `CLEAR_FAULT` (R182): the checks in the order of 60_exceptions.md R408. -/
def msInit (s : State) : Res State Fault (List Word) :=
  if s.scanConfigured = false then .raised .malformedToken s
  else if s.maxInput < s.srcLen then .raised .inputTooLarge s
  else .ok [] s.scanStart

/-- `MS_INIT` (R182). -/
def execMsInit (s : State) : Host.Outcome State Fault Refusal :=
  finish (msInit s.clearFault)

/-- `key(i)` (R183). -/
def State.keyAt (s : State) (i : Nat) : Nat := (s.srcByte (i - 1) ++ s.srcByte i).toNat

/-- The body of `MS_INSERT(i)` (R184). -/
def msInsert (i : Word) (s : State) : Res State Fault (List Word) :=
  if i < 1 ∨ s.srcLen ≤ i ∨ i < s.sPos then .raised .malformedToken s
  else if s.cfg.srcCap ≤ i then .stuck .srcBeyondCapacity
  else
    let k := s.keyAt i.toNat
    .ok [] { s with
      prev := s.prev.write i.toNat (s.headEntry k)
      head := s.head.write k i
      sPos := i + 1 }

/-- `MS_INSERT(i)` (R184). -/
def execMsInsert (i : Word) (s : State) : Host.Outcome State Fault Refusal :=
  operation (inMode .chain (msInsert i)) s

/-- The extent of R185, at most `n` more than `l`: how many bytes ending at `i` equal those ending at `j`. -/
def State.extentBack (s : State) (i j : Nat) : Nat → Nat → Nat
  | 0, l => l
  | n + 1, l => if s.srcByte (i - l) = s.srcByte (j - l) then s.extentBack i j n (l + 1) else l

/-- `TabRead(PREV, j)`; a link of a table without values may name no entry (notes/assumptions/10.md). -/
def State.prevOf (s : State) (j : Word) : Except Fault Word :=
  if j < s.cfg.srcCap then .ok (s.prevEntry j.toNat) else .error .tableBeyondCapacity

/-- The loop of R190: the `n`-th successor of `j`, or `NIL` where the chain ends before. -/
def State.skipNodes (s : State) : Nat → Word → Except Fault Word
  | 0, j => .ok j
  | n + 1, j =>
    if j = s.cfg.nil then .ok j
    else match s.prevOf j with
      | .error f => .error f
      | .ok j' => s.skipNodes n j'

/-- `next(j, best)` (R190). -/
def State.nextNode (s : State) (j : Word) (best : Nat) : Except Fault Word :=
  match s.prevOf j with
  | .error f => .error f
  | .ok n =>
    if s.optDan1Skip = true ∧ s.jobCodec = .dan1 ∧ 6 < best ∧ n = j - 1 then s.skipNodes best j else .ok n

/-- The loop of `MS_WALK` (R185): offset and extent of each candidate, newest first. The first argument bounds the nodes visited. -/
def State.walk (s : State) (i : Nat) : Nat → Word → Nat → Except Fault (List Word)
  | 0, _, _ => .error .chainDoesNotEnd
  | n + 1, j, best =>
    if j = s.cfg.nil then .ok []
    else if j.toNat < i then
      let offset := i - j.toNat
      if s.msMaxOff.toNat < offset then .ok []
      else
        let extent := s.extentBack i j.toNat (min s.msMaxLen.toNat (j.toNat + 1)) 0
        match s.nextNode j (max best extent) with
        | .error f => .error f
        | .ok j' =>
          match s.walk i n j' (max best extent) with
          | .error f => .error f
          | .ok rest => .ok (BitVec.ofNat 32 offset :: BitVec.ofNat 32 extent :: rest)
    else match s.nextNode j best with
      | .error f => .error f
      | .ok j' => s.walk i n j' best

/-- The body of `MS_WALK(i)` (R185). It writes no table (R188). -/
def msWalk (i : Word) (s : State) : Res State Fault (List Word) :=
  if i < 1 ∨ s.srcLen ≤ i then .raised .malformedToken s
  else if s.cfg.srcCap ≤ i then .stuck .srcBeyondCapacity
  else match s.walk i.toNat (s.cfg.srcCap.toNat + 1) (s.headEntry (s.keyAt i.toNat)) 0 with
    | .error f => .stuck f
    | .ok pairs => .ok pairs s

/-- `MS_WALK(i)` (R185). -/
def execMsWalk (i : Word) (s : State) : Host.Outcome State Fault Refusal :=
  operation (inMode .chain (msWalk i)) s

/-- The extent of R192, at most `n` more than `l`: how many bytes from `i` on equal those from `i - offset` on. -/
def State.extentForward (s : State) (i offset : Nat) : Nat → Nat → Nat
  | 0, l => l
  | n + 1, l => if s.srcByte (i + l) = s.srcByte (i - offset + l) then s.extentForward i offset n (l + 1) else l

/-- The loop of `MS_LINEAR` (R192): the next `n` offsets. Where all bytes of `SRC` from `i` on match and the comparison would go on, it reads a byte that does not exist
(an illegal `SRC_LEN`; notes/assumptions/9.md). -/
def State.linearPairs (s : State) (i : Nat) : Nat → Nat → Except Fault (List Word)
  | 0, _ => .ok []
  | n + 1, offset =>
    let reach := min s.msMaxLen.toNat (s.srcLen.toNat - i)
    let there := s.cfg.srcCap.toNat - i
    let extent := s.extentForward i offset (min reach there) 0
    if extent = there ∧ there < reach then .error .srcBeyondCapacity
    else match s.linearPairs i n (offset + 1) with
      | .error f => .error f
      | .ok rest => .ok (if 1 ≤ extent then BitVec.ofNat 32 offset :: BitVec.ofNat 32 extent :: rest else rest)

/-- The body of `MS_LINEAR(i)` (R192). -/
def msLinear (i : Word) (s : State) : Res State Fault (List Word) :=
  if s.srcLen ≤ i then .raised .malformedToken s
  else match s.linearPairs i.toNat (min s.msMaxOff.toNat i.toNat) 1 with
    | .error f => .stuck f
    | .ok pairs => .ok pairs s

/-- `MS_LINEAR(i)` (R192). -/
def execMsLinear (i : Word) (s : State) : Host.Outcome State Fault Refusal :=
  operation (inMode .linear (msLinear i)) s

/-- The loop of `MS_STEP_RUN` (R194): the next `n` offsets. -/
def State.stepRuns (p : Nat) : Nat → Nat → State → State
  | 0, _, s => s
  | n + 1, off, s =>
    let run := if s.srcByte p = s.srcByte (p - off) then s.mlenEntry off + 1 else 0
    State.stepRuns p n (off + 1) { s with mlen := s.mlen.write off run }

/-- The body of `MS_STEP_RUN` (R194). It reads `SRC[s_pos]` once for each offset; a byte that does not exist stops the model (notes/assumptions/9.md). -/
def msStepRun (s : State) : Res State Fault (List Word) :=
  let offsets := min s.msMaxOff.toNat s.sPos.toNat
  if s.srcLen ≤ s.sPos then .raised .malformedToken s
  else if s.cfg.srcCap ≤ s.sPos ∧ 1 ≤ offsets then .stuck .srcBeyondCapacity
  else
    let t := State.stepRuns s.sPos.toNat offsets 1 s
    .ok [s.sPos] { t with sPos := s.sPos + 1 }

/-- `MS_STEP_RUN` (R194). -/
def execMsStepRun (s : State) : Host.Outcome State Fault Refusal :=
  operation (inMode .run msStepRun) s

end Sys2Proof.Machine
end

