-- ==== Sys2Proof/Machine/Dispatch.lean ====
section
/-! DEFINITION. The dispatch: one arm per instruction. -/

namespace Sys2Proof.Machine

def exec (i : Instr) (s : State) : Host.Outcome State Fault Refusal :=
  match i with
  | .reset => Sys2Proof.Machine.execReset s
  | .regRead reg => Sys2Proof.Machine.execRegRead reg s
  | .regWrite reg value => Sys2Proof.Machine.execRegWrite reg value s
  | .abort => Sys2Proof.Machine.execAbort s
  | .srcWrite index value => Sys2Proof.Machine.execSrcWrite index value s
  | .outRead index => Sys2Proof.Machine.execOutRead index s
  | .mlenRead offset => Sys2Proof.Machine.execMlenRead offset s
  | .bwInit => Sys2Proof.Machine.execBwInit s
  | .writeBit v => Sys2Proof.Machine.execWriteBit v s
  | .writeByte v => Sys2Proof.Machine.execWriteByte v s
  | .writeBits value size => Sys2Proof.Machine.execWriteBits value size s
  | .wSetBacktrack => Sys2Proof.Machine.execWSetBacktrack s
  | .flush => Sys2Proof.Machine.execFlush s
  | .brInit => Sys2Proof.Machine.execBrInit s
  | .readBit => Sys2Proof.Machine.execReadBit s
  | .readByte => Sys2Proof.Machine.execReadByte s
  | .readBits size => Sys2Proof.Machine.execReadBits size s
  | .rSetBacktrack => Sys2Proof.Machine.execRSetBacktrack s
  | .egWrite value => Sys2Proof.Machine.execEgWrite value s
  | .egRead limit => Sys2Proof.Machine.execEgRead limit s
  | .igWrite value flags => Sys2Proof.Machine.execIgWrite value flags s
  | .igRead sentinel flags => Sys2Proof.Machine.execIgRead sentinel flags s
  | .bbgWrite value => Sys2Proof.Machine.execBbgWrite value s
  | .bbgRead => Sys2Proof.Machine.execBbgRead s
  | .gammaBits value => Sys2Proof.Machine.execGammaBits value s
  | .msInit => Sys2Proof.Machine.execMsInit s
  | .msInsert k => Sys2Proof.Machine.execMsInsert k s
  | .msWalk k => Sys2Proof.Machine.execMsWalk k s
  | .msLinear k => Sys2Proof.Machine.execMsLinear k s
  | .msStepRun => Sys2Proof.Machine.execMsStepRun s
  | .tdStart => Sys2Proof.Machine.execTdStart s
  | .tdStep => Sys2Proof.Machine.execTdStep s
  | .tdRun => Sys2Proof.Machine.execTdRun s
  | .mdkRaw c => Sys2Proof.Machine.execMdkRaw c s
  | .mdkRle c value => Sys2Proof.Machine.execMdkRle c value s
  | .mdkEnd => Sys2Proof.Machine.execMdkEnd s
  | .lzfLrun n => Sys2Proof.Machine.execLzfLrun n s
  | .lzfShort control hi lo => Sys2Proof.Machine.execLzfShort control hi lo s
  | .lzfLong hi len9 lo => Sys2Proof.Machine.execLzfLong hi len9 lo s
  | .lzfEnd => Sys2Proof.Machine.execLzfEnd s
  | .pltQ u => Sys2Proof.Machine.execPltQ u s
  | .pltFirst value => Sys2Proof.Machine.execPltFirst value s
  | .pltLit value => Sys2Proof.Machine.execPltLit value s
  | .pltMatch g bo extra => Sys2Proof.Machine.execPltMatch g bo extra s
  | .pltEnd => Sys2Proof.Machine.execPltEnd s
  | .dan1First value => Sys2Proof.Machine.execDan1First value s
  | .dan1Lit value => Sys2Proof.Machine.execDan1Lit value s
  | .dan1Match len off => Sys2Proof.Machine.execDan1Match len off s
  | .dan1Raw n27 => Sys2Proof.Machine.execDan1Raw n27 s
  | .dan1End => Sys2Proof.Machine.execDan1End s
  | .dan3Subset subset => Sys2Proof.Machine.execDan3Subset subset s
  | .dan3First value => Sys2Proof.Machine.execDan3First value s
  | .dan3Lit value => Sys2Proof.Machine.execDan3Lit value s
  | .dan3Match len off => Sys2Proof.Machine.execDan3Match len off s
  | .dan3Raw n1 => Sys2Proof.Machine.execDan3Raw n1 s
  | .dan3End => Sys2Proof.Machine.execDan3End s
  | .zx7First value => Sys2Proof.Machine.execZx7First value s
  | .zx7Lit value => Sys2Proof.Machine.execZx7Lit value s
  | .zx7Match g bo high => Sys2Proof.Machine.execZx7Match g bo high s
  | .zx7End => Sys2Proof.Machine.execZx7End s
  | .zx0Lits n => Sys2Proof.Machine.execZx0Lits n s
  | .zx0Rep len => Sys2Proof.Machine.execZx0Rep len s
  | .zx0Match msb bo => Sys2Proof.Machine.execZx0Match msb bo s
  | .zx0End => Sys2Proof.Machine.execZx0End s
  | .bbLen n => Sys2Proof.Machine.execBbLen n s
  | .bbLit value => Sys2Proof.Machine.execBbLit value s
  | .bbMatch d hi g => Sys2Proof.Machine.execBbMatch d hi g s
  | .bbEnd => Sys2Proof.Machine.execBbEnd s

end Sys2Proof.Machine
end

