-- ==== Sys2Proof/Machine/Step.lean ====
section
/-! DEFINITION. One step of the machine: one transaction (30_encoding.md R90, 20_memory.md R70). The commands the host has still to issue
stand in `cmds` (notes/assumptions/2.md). -/

namespace Sys2Proof.Machine

/-- The transaction of one command: its instruction, or, for an `OP` outside the table, the fault of 30_encoding.md R92 and R107 (refused
while `FAULT = 1`, 60_exceptions.md R406). -/
def transact (c : Command) (s : State) : Host.Outcome State Fault Refusal :=
  match decodeCommand c with
  | .ok i => exec i s
  | .error k => operation (fun s => .raised k s) s

/-- ONE STEP: the next command is taken and its transaction performed. With no command pending nothing happens
(70_reset_and_hazards.md R440: nothing runs until the host issues an operation). -/
def step (s : State) : Host.Outcome State Fault Refusal :=
  match s.cmds with
  | [] => .next s
  | c :: rest => transact c { s with cmds := rest }

/-- The buffer that holds the bytes of a list from index `a` on. -/
def loadBytes : Nat → List Byte → Memory
  | _, [] => []
  | a, v :: r => (a, v) :: loadBytes (a + 1) r

/-- The instruction with the table's word `w` made the next to run (notes/assumptions/1.md, 2.md, 17.md): a command becomes the
pending one; a token becomes the stream of a decode job that stands in `D_TOKEN`, with `TD_STEP` pending. -/
def State.withFetchWord (s : State) (nbits w : Nat) : State :=
  let w := w % 2 ^ nbits
  match decodeCommand (commandOfNat w) with
  | .ok _ => { s with cmds := commandOfNat w :: s.cmds.tail }
  | .error _ =>
    { s with
      cmds := ⟨0x51, 0, 0⟩ :: s.cmds.tail
      src := loadBytes 0 (bytesOfNat w)
      srcLen := BitVec.ofNat 32 (bytesOfNat w).length
      codec := codecCode (tableCodec (BitVec.ofNat 8 w))
      dState := .token
      rPos := 0, rMask := 0, rBacktrack := false, dMirror := false
      fault := false, err := 0 }

end Sys2Proof.Machine
end

