-- ==== Sys2Proof/Machine/Emit.lean ====
section
/-! DEFINITION. The encode direction (00_scope.md R4, 43_decoder_common.md R224 b): token sequences in the notation of 30_encoding.md R108, for every
token of every codec the list of BW and EG operations that writes it, and the elements those operations put into the stream. RCL-BSE has
no emit operation: the host issues the list, after `BW_INIT`. -/

namespace Sys2Proof.Machine

/-- A token in the notation of 30_encoding.md R108 and R109, with everything it stands for: a run has its bytes, a match its offset and
its length. -/
inductive Token where
  /-- `Q <q>`: Pletter's header -/
  | q (q : Nat)
  /-- `SUBSET <s>`: DAN3's preamble -/
  | subset (s : Nat)
  /-- `LEN <n>`: BitBuster's header -/
  | len (n : Nat)
  /-- `FIRST <byte>` -/
  | first (v : Byte)
  /-- `LIT <byte>`; in ZX0 a run of one (R109) -/
  | lit (v : Byte)
  /-- `RAW <byte> <byte> ...` -/
  | raw (bytes : List Byte)
  /-- `RLE <count>, <byte>` -/
  | rle (count : Nat) (v : Byte)
  /-- `MATCH <offset>, <length>` -/
  | backRef (offset length : Nat)
  /-- `REP <length>` -/
  | rep (length : Nat)
  /-- `END` -/
  | stop
  deriving DecidableEq, Repr

/-! ## The operations of an emit sequence -/

/-- `WRITE_BIT(b)`. -/
def opBit (b : Bool) : Instr := .writeBit (if b then 1 else 0)

/-- `WRITE_BYTE(v)`. -/
def opByte (v : Nat) : Instr := .writeByte (BitVec.ofNat 32 v)

/-- `WRITE_BITS(v, n)`. -/
def opBits (v n : Nat) : Instr := .writeBits (BitVec.ofNat 32 v) (BitVec.ofNat 32 n)

/-- `EG_WRITE(v)`. -/
def opEg (v : Nat) : Instr := .egWrite (BitVec.ofNat 32 v)

/-- `IG_WRITE(v, inverted, backwards)`: the flags are `B[0]` and `B[1]` (41_gamma.md R158). -/
def opIg (v : Nat) (inverted backwards : Bool) : Instr :=
  .igWrite (BitVec.ofNat 32 v) ((if inverted then 1 else 0) ||| (if backwards then 2 else 0))

/-- `BBG_WRITE(v)`. -/
def opBbg (v : Nat) : Instr := .bbgWrite (BitVec.ofNat 32 v)

/-- `WRITE_BYTE(b)` for each byte. -/
def opPayload (bytes : List Byte) : List Instr := bytes.map fun v => .writeByte (v.setWidth 32)

/-- The operations of an offset field of `n` bits above its low 8 (`WIDE_SPLIT`, 20_memory.md R68). -/
def opWide (split : WideSplit) (v n : Nat) : List Instr :=
  match split with
  | .bitsThenByte => [opBits (v >>> 8) n, opByte (v &&& 0xFF)]

/-! ## `EMIT(t)`, codec by codec; `none` where the codec has no such token. A difference below 0 is 0 (notes/assumptions/26.md). -/

/-- MDK-RLE (44_mdkrle_lzf.md R242 to R244). -/
def emitMdk : Token → Option (List Instr)
  | .raw bytes => some (opByte (bytes.length - 1) :: opPayload bytes)
  | .rle count v => some (opByte (0x80 ||| (count - 1)) :: opPayload [v])
  | .stop => some [opByte 0xFF]
  | _ => none

/-- LZF (44_mdkrle_lzf.md R250 to R253). -/
def emitLzf : Token → Option (List Instr)
  | .raw bytes => some (opByte (bytes.length - 1) :: opPayload bytes)
  | .backRef offset length =>
    if length ≤ Params.lzfShortMaxLen then
      some [opByte (((length - (Params.lzfMinMatch - 1)) <<< 5) ||| ((offset - 1) >>> 8)), opByte ((offset - 1) &&& 0xFF)]
    else
      some [opByte (0xE0 ||| ((offset - 1) >>> 8)), opByte (length - (Params.lzfShortMaxLen + 1)),
        opByte ((offset - 1) &&& 0xFF)]
  | .stop => some [opByte 0xFF]
  | _ => none

/-- The offset byte of Pletter and BitBuster, and its extension of `n` bits for an offset above 128 (45_pletter.md R276, 49_bitbuster.md R384). -/
def emitExtended (offset n : Nat) : List Instr :=
  if offset ≤ 128 then [opByte (offset - 1)]
  else [opByte (0x80 ||| ((offset - 1) &&& 0x7F)), opBits ((offset - 1) >>> 7) n]

/-- Pletter (45_pletter.md R272 to R277). -/
def emitPlt (c : DecodeCtx) : Token → Option (List Instr)
  | .q q => some [opBits (q - 1) 3]
  | .first v => some (opPayload [v])
  | .lit v => some (opBit false :: opPayload [v])
  | .backRef offset length =>
    some (opBit true :: opIg (length - 1) false false :: emitExtended offset (Params.pletterExtra c.q.toNat))
  | .stop => some (List.replicate Params.pletterEndBits (opBit true))
  | _ => none

/-- The offset of a DAN1 match (46_dan1_dan3.md R297, Emit). -/
def emitDan1Offset (cfg : Config) (length offset : Nat) : List Instr :=
  let far := opBit cfg.dan1SelFar
  let near := opBit (!cfg.dan1SelFar)
  let v (tier : Nat) := offset - 1 - Params.dan1Bound (tier - 1)
  let s3 := if 3 ≤ length then [near] else []
  let s2 := if 2 ≤ length then [near] else []
  if Params.dan1Bound 3 < offset then far :: opWide cfg.wideSplit (v 4) (Params.dan1Width 4 - 8)
  else if Params.dan1Bound 2 < offset then s3 ++ [far, opByte (v 3)]
  else if Params.dan1Bound 1 < offset then s3 ++ s2 ++ [far, opBits (v 2) (Params.dan1Width 2)]
  else s3 ++ s2 ++ [near, opBits (v 1) (Params.dan1Width 1)]

/-- DAN1 (46_dan1_dan3.md R291 to R298). -/
def emitDan1 (c : DecodeCtx) : Token → Option (List Instr)
  | .first v => some (opPayload [v])
  | .lit v => some (opBit true :: opPayload [v])
  | .backRef offset length => some (opBit false :: opEg length :: emitDan1Offset c.cfg length offset)
  | .raw bytes =>
    some ([opBit false, opBits 0 Params.zeroLimit16, opBit true, opByte (bytes.length - Params.dan1RawMin)] ++ opPayload bytes)
  | .stop => some [opBit false, opBits 0 Params.zeroLimit16, opBit false]
  | _ => none

/-- The offset of a DAN3 match (46_dan1_dan3.md R316, R317, Emit): the smallest tier that holds it. -/
def emitDan3Offset (c : DecodeCtx) (length offset : Nat) : List Instr :=
  if length = 1 then
    if offset = 1 then [opBit false] else [opBit true, opBits (offset - 2) 1]
  else if offset ≤ 32 then c.cfg.dan3Prefix.tierA.map opBit ++ [opBits (offset - 1) 5]
  else if offset ≤ 288 then c.cfg.dan3Prefix.tierB.map opBit ++ [opByte (offset - 33)]
  else c.cfg.dan3Prefix.tierC.map opBit ++ opWide c.cfg.wideSplit (offset - 289) (c.subset.toNat + 1)

/-- DAN3 (46_dan1_dan3.md R311 to R319). -/
def emitDan3 (c : DecodeCtx) : Token → Option (List Instr)
  | .subset s => some [opBits 0xFE (s + 1)]
  | .first v => some (opPayload [v])
  | .lit v => some (opBit true :: opPayload [v])
  | .backRef offset length => some (opBit false :: opEg length :: emitDan3Offset c length offset)
  | .raw bytes =>
    some ([opBit false, opBits 0 c.cfg.dan3ZeroLimit, opBit true, opByte (bytes.length - 1)] ++ opPayload bytes)
  | .stop => some [opBit false, opBits 0 c.cfg.dan3ZeroLimit, opBit false]
  | _ => none

/-- ZX7 (47_zx7.md R331 to R336). -/
def emitZx7 : Token → Option (List Instr)
  | .first v => some (opPayload [v])
  | .lit v => some (opBit false :: opPayload [v])
  | .backRef offset length =>
    some (opBit true :: opEg (length - 1) ::
      if offset ≤ Params.zx7MaxOff1 then [opByte (offset - 1)]
      else [opByte (0x80 ||| ((offset - 129) &&& 0x7F)), opBits ((offset - 129) >>> 7) 4])
  | .stop => some [opBit true, opBits 0 Params.zeroLimit16, opBit true]
  | _ => none

/-- ZX0 without the state bits (48_zx0.md R354 to R359); `c.inv` and `c.bw` are its `inv` and `bw`. -/
def emitZx0 (c : DecodeCtx) : Token → Option (List Instr)
  | .lit v => some (opIg 1 false c.bw :: opPayload [v])
  | .raw bytes => some (opIg bytes.length false c.bw :: opPayload bytes)
  | .rep length => some [opIg length false c.bw]
  | .backRef offset length =>
    some [opIg (((offset - 1) >>> 7) + 1) c.inv c.bw, opByte ((127 - ((offset - 1) &&& 127)) <<< 1), .wSetBacktrack,
      opIg (length - 1) false c.bw]
  | .stop => some [opIg Params.zx0EofMsb.toNat c.inv c.bw]
  | _ => none

/-- BitBuster (49_bitbuster.md R381 to R386). -/
def emitBb : Token → Option (List Instr)
  | .len n => some [opByte n, opByte (n >>> 8), opByte (n >>> 16), opByte (n >>> 24)]
  | .lit v => some (opBit false :: opPayload [v])
  | .backRef offset length => some (opBit true :: emitExtended offset 4 ++ [opBbg (length - 2)])
  | .stop => some [opBit true, opByte 0x00, opBits 0xFFFF Params.bbGammaLimit, opBit false]
  | _ => none

/-- `EMIT(t)` (43_decoder_common.md R224 b). Outside the ranges of `Token.inRange` it is the pseudocode with the arithmetic of natural numbers: a difference that would be negative, to which
the spec gives no operand, is 0, and an operand has the low 32 bits of its number (DESIGN CHOICE, notes/assumptions/26.md). -/
def emit (codec : Codec) (c : DecodeCtx) (t : Token) : Option (List Instr) :=
  match codec with
  | .mdkRle => emitMdk t
  | .lzf => emitLzf t
  | .pletter => emitPlt c t
  | .dan1 => emitDan1 c t
  | .dan3 => emitDan3 c t
  | .zx7 => emitZx7 t
  | .zx0 => emitZx0 c t
  | .bitBuster => emitBb t

/-- The ranges the token rules state as preconditions of the emit sequences. The widths of Pletter's and DAN3's offsets are those of the job's
`q` and `subset`; a ZX0 length is a value of `VAL_BITS` bits. -/
def Token.inRange (codec : Codec) (c : DecodeCtx) (t : Token) : Bool :=
  match codec, t with
  | .mdkRle, .raw bytes => 1 ≤ bytes.length ∧ bytes.length ≤ 128
  | .mdkRle, .rle count _ => 1 ≤ count ∧ count ≤ 127
  | .mdkRle, .stop => true
  | .lzf, .raw bytes => 1 ≤ bytes.length ∧ bytes.length ≤ 32
  | .lzf, .backRef offset length =>
    Params.lzfMinMatch ≤ length ∧ length ≤ Params.lzfLongMaxLen ∧ 1 ≤ offset ∧ offset ≤ Params.lzfMaxOff
  | .lzf, .stop => true
  | .pletter, .q k => 1 ≤ k ∧ k ≤ 7
  | .pletter, .first _ => true
  | .pletter, .lit _ => true
  | .pletter, .backRef offset length =>
    2 ≤ length ∧ length ≤ 65536 ∧ 1 ≤ offset ∧ offset ≤ Params.pletterMaxOff c.q.toNat
  | .pletter, .stop => true
  | .dan1, .first _ => true
  | .dan1, .lit _ => true
  | .dan1, .backRef offset length =>
    1 ≤ length ∧ length ≤ 65535 ∧ 1 ≤ offset ∧
      offset ≤ (if length = 1 then Params.dan1Bound 2 else if length = 2 then Params.dan1Bound 3 else Params.dan1Bound 4)
  | .dan1, .raw bytes => Params.dan1RawMin ≤ bytes.length ∧ bytes.length ≤ 282
  | .dan1, .stop => true
  | .dan3, .subset s => s ≤ 7
  | .dan3, .first _ => true
  | .dan3, .lit _ => true
  | .dan3, .backRef offset length =>
    1 ≤ length ∧ length < 2 ^ c.cfg.dan3ZeroLimit ∧ 1 ≤ offset ∧
      offset ≤ (if length = 1 then 3 else Params.dan3MaxOff c.subset.toNat)
  | .dan3, .raw bytes => 1 ≤ bytes.length ∧ bytes.length ≤ 256
  | .dan3, .stop => true
  | .zx7, .first _ => true
  | .zx7, .lit _ => true
  | .zx7, .backRef offset length => 2 ≤ length ∧ length ≤ 65536 ∧ 1 ≤ offset ∧ offset ≤ Params.zx7MaxOff2
  | .zx7, .stop => true
  | .zx0, .lit _ => true
  | .zx0, .raw bytes => 1 ≤ bytes.length ∧ bytes.length < 2 ^ c.cfg.valueBits
  | .zx0, .rep length => 1 ≤ length ∧ length < 2 ^ c.cfg.valueBits
  | .zx0, .backRef offset length =>
    2 ≤ length ∧ length < 2 ^ c.cfg.valueBits ∧ 1 ≤ offset ∧ offset ≤ Params.zx0MaxOff
  | .zx0, .stop => true
  | .bitBuster, .len n => n < 2 ^ 32
  | .bitBuster, .lit _ => true
  | .bitBuster, .backRef offset length => 2 ≤ length ∧ length ≤ 65535 ∧ 1 ≤ offset ∧ offset ≤ 2048
  | .bitBuster, .stop => true
  | _, _ => false

/-! ## Sequences of tokens -/

/-- What a header token fixes for the tokens after it. -/
def contextAfter (c : DecodeCtx) : Token → DecodeCtx
  | .q q => { c with q := BitVec.ofNat 3 q }
  | .subset s => { c with subset := BitVec.ofNat 3 s }
  | _ => c

/-- ZX0's state bit between two tokens (48_zx0.md R359); `none` for a pair that R351 cannot spell. -/
def zx0StateBitBetween (previous this : Token) : Option Bool :=
  match previous, this with
  | .lit _, .rep _ | .raw _, .rep _ => some false
  | .lit _, .backRef _ _ | .raw _, .backRef _ _ | .lit _, .stop | .raw _, .stop => some true
  | .rep _, .lit _ | .rep _, .raw _ | .backRef _ _, .lit _ | .backRef _ _, .raw _ => some false
  | .rep _, .backRef _ _ | .backRef _ _, .backRef _ _ | .rep _, .stop | .backRef _ _, .stop => some true
  | _, _ => none

/-- What is written in front of a token, `previous` being the one before it: ZX0's state bit, and nothing in front of a stream's first token, which ZX0
requires to be a literal run (R359). -/
def emitBefore (codec : Codec) (previous : Option Token) (t : Token) : Option (List Instr) :=
  match codec, previous with
  | .zx0, none =>
    match t with
    | .lit _ | .raw _ => some []
    | _ => none
  | .zx0, some p => (zx0StateBitBetween p t).map fun b => [opBit b]
  | _, _ => some []

/-- `EMIT(t1), ..., EMIT(tn)` (R224), ZX0's state bits among them; `none` for a sequence the codec cannot spell. The reversal of the finished bytes that ZX0's
`backwards` asks of the emitter is the host's (R359). -/
def emitTokens (codec : Codec) (c : DecodeCtx) (previous : Option Token) : List Token → Option (List Instr)
  | [] => some []
  | t :: r =>
    match emitBefore codec previous t, emit codec c t, emitTokens codec (contextAfter c t) (some t) r with
    | some before, some body, some rest => some (before ++ body ++ rest)
    | _, _, _ => none

/-! ## The elements an emit sequence puts into the stream -/

/-- What one operation puts into the stream: bits, a payload byte, or the announcement that the next bit goes into the last byte (40_bitio.md R124). -/
inductive Put where
  | bit (b : Bool)
  | byte (v : Byte)
  | share
  deriving DecidableEq, Repr

/-- What a writing operation puts (40_bitio.md R121 to R124, 41_gamma.md R151, R158, R163). -/
def putsOf (cfg : Config) : Instr → List Put
  | .writeBit v => [.bit (v != 0)]
  | .writeByte v => [.byte (v.setWidth 8)]
  | .writeBits value size => (bitsOf (cfg.fit value) size.toNat).map .bit
  | .wSetBacktrack => [.share]
  | .egWrite value => (egCode value).map .bit
  | .igWrite value flags => (igCode cfg (flags.getLsbD 0) (flags.getLsbD 1) value).map .bit
  | .bbgWrite value => (bbgCode value).map .bit
  | _ => []

/-- Elements in stream order: a shared bit stands in bit 0 of its byte. -/
def elemsOfPuts : List Put → List Elem
  | [] => []
  | .byte v :: .share :: .bit b :: r => .byte (v ||| (if b then 0x01 else 0x00)) :: elemsOfPuts r
  | .byte v :: r => .byte v :: elemsOfPuts r
  | .bit b :: r => .bit b :: elemsOfPuts r
  | .share :: r => elemsOfPuts r

/-- The elements of 30_encoding.md R97 to R105 that a list of operations writes. -/
def writtenElems (cfg : Config) (is : List Instr) : List Elem := elemsOfPuts (is.flatMap (putsOf cfg))

/-- THE WHOLE TOKEN as elements: payload bytes, and in ZX0 the offset byte with the shared bit and the rest of the length code, included (R104, R358). -/
def tokenElems (codec : Codec) (c : DecodeCtx) (t : Token) : Option (List Elem) :=
  (emit codec c t).map (writtenElems c.cfg)

/-- A whole stream as elements, ZX0's state bits included (R359). -/
def streamElems (codec : Codec) (c : DecodeCtx) (ts : List Token) : Option (List Elem) :=
  (emitTokens codec c none ts).map (writtenElems c.cfg)

end Sys2Proof.Machine
end

