-- ==== Sys2Proof/Safety.lean ====
section
/-! DEFINITION. The terms claims use: what holds of every state a run reaches, a run of transactions without a fault, what the stream
holds from the reader's position on, and the spec's formulas for codes, offsets and lengths written as plain arithmetic. -/

namespace Sys2Proof.Machine

/-! ## What holds of every state a run reaches -/

/-- A mask register holds 0 or exactly one bit (10_state.md R22, R23). -/
def maskOk (m : Byte) : Bool :=
  [0x00, 0x80, 0x40, 0x20, 0x10, 0x08, 0x04, 0x02, 0x01].contains m

/-- Buffers and tables are in canonical form. -/
def State.canonical (s : State) : Bool :=
  Memory.wf s.src && Memory.wf s.out && s.head.wf && s.prev.wf && s.mlen.wf

/-- A table has no entry at `n` or above. -/
def Table.sized (t : Table) (n : Nat) : Bool := t.span ≤ n && t.cells.all fun c => c.1 < n

/-- No space has an entry beyond its size (20_memory.md R60). -/
def State.sized (s : State) : Bool :=
  s.src.all (fun c => c.1 < s.cfg.srcCap.toNat) && s.out.all (fun c => c.1 < s.cfg.outCap.toNat) &&
  s.head.sized Params.keys && s.prev.sized s.cfg.srcCap.toNat && s.mlen.sized (s.cfg.srcCap.toNat + 1)

/-- Every byte of `OUT` below `out_len` holds a value (10_state.md R41), and `out_len` fits. -/
def State.outWritten (s : State) : Prop :=
  s.outLen ≤ s.cfg.outCap ∧ ∀ a, a < s.outLen.toNat → (Memory.read s.out a).isSome = true

/-- The writer's registers (R22). `w_index` is below `OUT_CAP`, not always below `out_len`: `TD_START` zeroes `out_len` alone
(notes/assumptions/18.md). -/
def State.writerOk (s : State) : Prop :=
  maskOk s.wMask = true ∧ (s.wMask ≠ 0 → s.wIndex < s.cfg.outCap)

/-- The reader's registers (R23). -/
def State.readerOk (s : State) : Prop :=
  maskOk s.rMask = true ∧ (s.rMask ≠ 0 → s.rIndex < s.rPos)

/-- `d_state = D_FAULT` exactly when `STATUS.FAULT = 1` (60_exceptions.md R407), and `ERR` is 0 exactly when it is 0 (10_state.md R35). -/
def State.faultOk (s : State) : Prop :=
  (s.fault = true ↔ s.dState = .fault) ∧ (s.fault = true ↔ s.err ≠ 0)

/-- Every value, length, offset and index register holds a number of `VAL_BITS` bits (00_scope.md R7, R9). -/
def State.valuesFit (s : State) : Bool :=
  [s.outLen, s.wIndex, s.rPos, s.rIndex, s.dLastOffset, s.dSentinel, s.dHdrLen, s.dTokens, s.sPos,
    s.srcLen, s.skip, s.msMaxOff, s.msMaxLen, s.bbMaxInput].all fun v => v.toNat < 2 ^ s.cfg.valueBits

/-- The invariant of the machine. An instance whose `OUT_CAP` is no number of `VAL_BITS` bits is set aside where the registers' width is meant
(notes/assumptions/4.md). -/
structure State.Inv (s : State) : Prop where
  canonical : s.canonical = true
  sized : s.sized = true
  outWritten : s.outWritten
  writerOk : s.writerOk
  readerOk : s.readerOk
  faultOk : s.faultOk
  valuesFit : s.cfg.outCap.toNat < 2 ^ s.cfg.valueBits → s.valuesFit = true

/-! ## Runs -/

/-- The transactions of a list of instructions, none of which leaves `FAULT = 1`: their result words in order, and the last state. -/
def runAll : List Instr → State → Option (List (List Word) × State)
  | [], s => some ([], s)
  | i :: r, s =>
    match exec i s with
    | .next t =>
      if t.fault then none
      else match runAll r t with
        | some (ws, u) => some (t.resp.res :: ws, u)
        | none => none
    | .fault _ => none
    | .refused _ => none

/-- The state after the transactions of a list of instructions without a fault. -/
def after (is : List Instr) (s : State) : Option State := (runAll is s).map Prod.snd

/-! ## The stream at the reader -/

/-- The reader at the end of the elements, if they are what it reads next. -/
def readElems : List Elem → State → Option State
  | [], s => some s
  | .bit b :: r, s =>
    match readBit s with
    | .ok b' t => if b' = b then readElems r t else none
    | .raised _ _ => none
    | .stuck _ => none
  | .byte v :: r, s =>
    match readByte s with
    | .ok v' t => if v' = v then readElems r t else none
    | .raised _ _ => none
    | .stuck _ => none

/-- The stream holds these elements next, and `t` is the reader behind them. -/
def State.reads (s : State) (es : List Elem) (t : State) : Prop := readElems es s = some t

/-- The reader cannot reach an index that does not exist: `SRC_LEN` is legal (10_state.md R29) and the cursor is within the stream. -/
def State.streamOk (s : State) : Prop :=
  s.srcLen ≤ s.cfg.srcCap ∧ s.rPos ≤ s.srcLen ∧ (s.rMask ≠ 0 → s.rIndex < s.rPos)

/-- A decode job that `TD_STEP` can go on with: no fault, a legal stream, and a codec that has a token rule in this state
(43_decoder_common.md R217). -/
def State.jobOk (s : State) : Prop :=
  s.fault = false ∧ s.streamOk ∧ s.dState ≠ .fault ∧ (s.dState = .token → s.jobCodec ≠ .zx0)

/-- What the reader can still deliver, in bits: the pending bit, the open bit byte, and every byte not fetched. -/
def State.unread (s : State) : Nat :=
  (if s.rBacktrack then 1 else 0) + (if s.rMask = 0 then 0 else Nat.log2 s.rMask.toNat + 1) +
    8 * (s.srcLen.toNat - s.rPos.toNat)

/-! ## The bytes of `OUT` -/

/-- `t` is `s` with `n` bytes appended, the `k`-th being `v k`, and nothing else changed. -/
def State.appends (s t : State) (n : Nat) (v : Nat → Byte) : Prop :=
  t = { s with out := t.out, outLen := t.outLen } ∧
  t.outLen.toNat = s.outLen.toNat + n ∧
  (∀ k, k < n → Memory.read t.out (s.outLen.toNat + k) = some (v k)) ∧
  (∀ a, a < s.outLen.toNat ∨ s.outLen.toNat + n ≤ a → Memory.read t.out a = Memory.read s.out a)

/-- `n` more bytes fit `OUT`. -/
def State.roomFor (s : State) (n : Nat) : Prop := s.outLen.toNat + n ≤ s.cfg.outCap.toNat

/-- The writer can take `n` bits: it is not refused, a pending backtrack bit has a byte to go into, an open bit byte exists, and
the bit bytes fit. -/
def State.writesBits (s : State) (n : Nat) : Prop :=
  s.fault = false ∧ (s.wBacktrack = true → 1 ≤ s.outLen ∧ s.outLen ≤ s.cfg.outCap) ∧
    (s.wMask ≠ 0 → s.wIndex < s.cfg.outCap) ∧ s.roomFor ((n + 7) / 8)

/-- The end of a `TD_STEP` that leaves the job in `d`: the state, the count, and a response without result words (43_decoder_common.md R211). -/
def State.stepped (s : State) (d : DState) : State :=
  State.answered [] { s with dState := d, dTokens := s.cfg.fit (s.dTokens + 1) }

/-! ## Codes (41_gamma.md), as bit strings in stream order -/

/-- The low `n` bits of `v`, most significant first (20_memory.md R67). -/
def msbFirst (v n : Nat) : List Bool := (List.range n).reverse.map v.testBit

/-- The codeword of R151. -/
def codeEg (v : Nat) : List Bool := List.replicate (Nat.log2 v) false ++ msbFirst v (Nat.log2 v + 1)

/-- The codeword of R158 with the given continuation tag. -/
def codeIg (cont inverted : Bool) (v : Nat) : List Bool :=
  ((List.range (Nat.log2 v)).reverse.flatMap fun i => [cont, v.testBit i ^^ inverted]) ++ [!cont]

/-- The codeword of R163. -/
def codeBbg (v : Nat) : List Bool :=
  List.replicate (Nat.log2 (v + 1)) true ++ false :: msbFirst (v + 1) (Nat.log2 (v + 1))

/-- `WRITE_BIT`s for a bit string. -/
def writeBits (bits : List Bool) : List Instr := bits.map fun b => .writeBit (if b then 1 else 0)

/-! ## Tokens (30_encoding.md R97 to R105) -/

/-- Offset and length of the matches whose fields give both, by the formulas of the tables. -/
def matchShape : Instr → Option (Nat × Nat)
  | .lzfShort control hi lo => some (hi.toNat * 256 + lo.toNat + 1, control.toNat + 2)
  | .lzfLong hi len9 lo => some (hi.toNat * 256 + lo.toNat + 1, len9.toNat + 9)
  | .pltMatch g bo extra =>
    some (if bo.toNat < 128 then bo.toNat + 1 else extra.toNat * 128 + (bo.toNat - 128) + 1, g.toNat + 1)
  | .dan1Match len (.tier1 u) => some (u.toNat + 1, len.toNat)
  | .dan1Match len (.tier2 u) => some (u.toNat + 3, len.toNat)
  | .dan1Match len (.tier3 v) => some (v.toNat + 19, len.toNat)
  | .dan1Match len (.tier4 hi lo) => some (hi.toNat * 256 + lo.toNat + 275, len.toNat)
  | .dan3Match len .one => some (1, len.toNat)
  | .dan3Match len (.two u) => some (u.toNat + 2, len.toNat)
  | .dan3Match len (.tierA u) => some (u.toNat + 1, len.toNat)
  | .dan3Match len (.tierB v) => some (v.toNat + 33, len.toNat)
  | .dan3Match len (.tierC hi lo) => some (hi.toNat * 256 + lo.toNat + 289, len.toNat)
  | .zx7Match g bo high =>
    some (if bo.toNat < 128 then bo.toNat + 1 else high.toNat * 128 + (bo.toNat - 128) + 129, g.toNat + 1)
  | .bbMatch d hi g =>
    some (if d.toNat < 128 then d.toNat + 1 else hi.toNat * 128 + (d.toNat - 128) + 1, g.toNat + 2)
  | _ => none

/-- The byte of the tokens that append one byte given in them. -/
def literalOf : Instr → Option Byte
  | .pltFirst v | .pltLit v | .dan1First v | .dan1Lit v | .dan3First v | .dan3Lit v => some v
  | .zx7First v | .zx7Lit v | .bbLit v => some v
  | _ => none

/-- The number of payload bytes of the tokens that copy them from the stream. -/
def runLength : Instr → Option Nat
  | .mdkRaw c => some (c.toNat + 1)
  | .lzfLrun n => some (n.toNat + 1)
  | .dan1Raw n27 => some (n27.toNat + 27)
  | .dan3Raw n1 => some (n1.toNat + 1)
  | _ => none

/-! ## The scanner -/

/-- `js` is the chain that starts at `j` (42_scanner.md R183): each node's successor is its `PREV` entry, and it ends at `NIL`. -/
def State.isChain (s : State) : Word → List Word → Prop
  | j, [] => j = s.cfg.nil
  | j, k :: r => j = k ∧ k ≠ s.cfg.nil ∧ k < s.cfg.srcCap ∧ s.isChain (s.prevEntry k.toNat) r

/-- The tables of a scan job in `CHAIN` mode (R183, R184): every key has a chain, strictly descending, of positions that have this key and
lie below `s_pos`; `NIL` is no position. -/
def State.chainsOk (s : State) : Prop :=
  s.sPos ≤ s.srcLen ∧ s.srcLen ≤ s.cfg.srcCap ∧ s.cfg.srcCap ≤ s.cfg.nil ∧ s.canonical = true ∧
  ∀ key, key < 65536 → ∃ js : List Word, s.isChain (s.headEntry key) js ∧ js.Pairwise (· > ·) ∧
    ∀ j ∈ js, 1 ≤ j ∧ j < s.sPos ∧ s.keyAt j.toNat = key

/-- How many of the first `n` comparisons succeed before one fails. -/
def extentOf (same : Nat → Bool) (n : Nat) : Nat := ((List.range n).takeWhile same).length

/-- The extent of R185: bytes ending at `i` that equal those ending at `j`, at most `MS_MAXLEN` and not before position 0. -/
def State.backExtent (s : State) (i j : Nat) : Nat :=
  extentOf (fun l => s.srcByte (i - l) = s.srcByte (j - l)) (min s.msMaxLen.toNat (j + 1))

/-- The extent of R192: bytes from `i` on that equal those from `i - offset` on, at most `MS_MAXLEN` and within the data. -/
def State.forwardExtent (s : State) (i offset : Nat) : Nat :=
  extentOf (fun l => s.srcByte (i + l) = s.srcByte (i - offset + l)) (min s.msMaxLen.toNat (s.srcLen.toNat - i))

/-- Pairs as result words. -/
def pairWords (ps : List (Nat × Nat)) : List Word :=
  ps.flatMap fun p => [BitVec.ofNat 32 p.1, BitVec.ofNat 32 p.2]

/-! ## Reset -/

/-- The registers have the values of reset (70_reset_and_hazards.md R440; `BB_MAXINPUT` its `VAL_BITS` bits of 524288), and no byte or entry holds a value. -/
structure State.AtReset (s : State) : Prop where
  writer : s.outLen = 0 ∧ s.wMask = 0 ∧ s.wIndex = 0 ∧ s.wBacktrack = false
  reader : s.rPos = 0 ∧ s.rMask = 0 ∧ s.rIndex = 0 ∧ s.rBacktrack = false ∧ s.rLast = 0
  decoder : s.dState = .idle ∧ s.dLastOffset = 0 ∧ s.dQ = 0 ∧ s.dSubset = 0 ∧ s.dSentinel = 0 ∧ s.dHdrLen = 0 ∧
    s.dTokens = 0 ∧ s.dMirror = false
  scanner : s.sPos = 0
  configuration : s.codec = 0 ∧ s.opt = 0 ∧ s.srcLen = 0 ∧ s.skip = 0 ∧ s.msMode = 0 ∧ s.msMaxOff = 0 ∧
    s.msMaxLen = 0 ∧ s.bbMaxInput = s.cfg.fit 524288
  status : s.fault = false ∧ s.err = 0 ∧ s.status = 0
  contents : ∀ a, Memory.read s.src a = none ∧ Memory.read s.out a = none ∧ s.head.read a = none ∧
    s.prev.read a = none ∧ s.mlen.read a = none

/-! ## The interface -/

/-- The codes of 60_exceptions.md R400. -/
def faultCode : ErrKind → Nat
  | .inputTooLarge => 1
  | .truncatedStream => 2
  | .invalidHeader => 3
  | .invalidBackReference => 4
  | .invalidQValue => 5
  | .roundTripMismatch => 6
  | .malformedToken => 7
  | .outputOverflow => 8

/-- The operations 60_exceptions.md R406 and R407 allow while `FAULT = 1`. -/
def allowedInFault : Instr → Bool
  | .reset | .abort | .bwInit | .brInit | .msInit | .tdStart => true
  | .regRead _ | .regWrite _ _ | .srcWrite _ _ | .outRead _ | .mlenRead _ => true
  | _ => false

/-- The operations that clear `STATUS.FAULT` (60_exceptions.md R407). -/
def leavesFault : Instr → Bool
  | .reset | .abort | .bwInit | .brInit | .msInit | .tdStart => true
  | _ => false

/-- The kinds a `TD_STEP` of a started job can raise, by the code of `CODEC` (60_exceptions.md R403). -/
def codecRaises (codec : BitVec 3) : List ErrKind :=
  match codec.toNat with
  | 0 => [.truncatedStream, .outputOverflow]
  | 1 => [.truncatedStream, .outputOverflow, .invalidBackReference]
  | 2 => [.truncatedStream, .outputOverflow, .invalidBackReference, .invalidQValue]
  | 3 => [.truncatedStream, .outputOverflow, .invalidBackReference]
  | 4 => [.truncatedStream, .outputOverflow, .invalidBackReference, .invalidHeader]
  | 5 => [.truncatedStream, .outputOverflow, .invalidBackReference, .malformedToken]
  | 6 => [.truncatedStream, .outputOverflow, .invalidBackReference, .malformedToken]
  | _ => [.truncatedStream, .outputOverflow, .invalidBackReference, .invalidHeader, .malformedToken]

/-- The kinds a command can raise (60_exceptions.md R403; `EG_READ` with a limit above 32 by 41_gamma.md R153). -/
def raisable : Instr → List ErrKind
  | .writeBit _ | .writeByte _ => [.outputOverflow]
  | .writeBits _ _ | .egWrite _ | .igWrite _ _ | .bbgWrite _ => [.outputOverflow, .malformedToken]
  | .wSetBacktrack | .gammaBits _ | .msInsert _ | .msWalk _ | .msLinear _ | .msStepRun => [.malformedToken]
  | .readBit | .readByte | .bbgRead => [.truncatedStream]
  | .readBits _ | .igRead _ _ => [.truncatedStream, .malformedToken]
  | .egRead limit => if 32 < limit then [.malformedToken] else [.truncatedStream]
  | .msInit => [.malformedToken, .inputTooLarge]
  | .tdStart => [.inputTooLarge]
  | .tdStep | .tdRun =>
    [.truncatedStream, .invalidHeader, .invalidBackReference, .invalidQValue, .malformedToken, .outputOverflow]
  | _ => []

/-- The largest `SRC_LEN` `MS_INIT` accepts (42_scanner.md R182). -/
def State.inputLimit (s : State) : Nat :=
  min s.cfg.srcCap.toNat
    ([s.cfg.maxInputMdk, s.cfg.maxInputLzf, s.cfg.maxInputPletter, s.cfg.maxInputDan1, s.cfg.maxInputDan3,
      s.cfg.maxInputZx7, s.cfg.maxInputZx0, s.bbMaxInput].getD s.codec.toNat 0).toNat

/-- The index of `SRC` the reader's index `a` stands for (43_decoder_common.md R223). -/
def State.physical (s : State) (a : Nat) : Nat := if s.dMirror then s.srcLen.toNat - 1 - a else a

/-! ## Writing and reading back (40_bitio.md R133) -/

/-- The primitives of R133: a bit, a byte, and a byte whose bit 0 carries the next bit. -/
inductive Prim where
  | bit (b : Bool)
  | byte (v : Byte)
  | shared (v : Byte) (b : Bool)
  deriving DecidableEq, Repr

/-- The operations that write a primitive. -/
def Prim.writes : Prim → List Instr
  | .bit b => [.writeBit (if b then 1 else 0)]
  | .byte v => [.writeByte (v.setWidth 32)]
  | .shared v b => [.writeByte (v.setWidth 32), .wSetBacktrack, .writeBit (if b then 1 else 0)]

/-- The operations that read it back. -/
def Prim.reads : Prim → List Instr
  | .bit _ => [.readBit]
  | .byte _ => [.readByte]
  | .shared _ _ => [.readByte, .rSetBacktrack, .readBit]

/-- What they answer. -/
def Prim.results : Prim → List (List Word)
  | .bit b => [[if b then 1 else 0]]
  | .byte v => [[v.setWidth 32]]
  | .shared v b => [[v.setWidth 32 ||| (if b then 1 else 0)], [], [if b then 1 else 0]]

/-- The precondition of R124: the byte that is to carry a bit has bit 0 clear. -/
def Prim.ok : Prim → Bool
  | .shared v _ => v.getLsbD 0 = false
  | _ => true

/-- The bits a primitive puts into bit bytes. -/
def Prim.bits : Prim → Nat
  | .bit _ => 1
  | _ => 0

end Sys2Proof.Machine
end

