-- ==== Sys2Proof/Certificates/Slice0/Obligations.lean ====
section
/-! DEFINITION. The statements about this model. The vocabulary is Safety.lean's; OBLIGATIONS.json says of each what it states in words
and which rules of spec/ it rests on. A conclusion `exec i s = .next t` says that the instruction completes, and by naming `t`
what it leaves unchanged. -/

open Sys2Proof Sys2Proof.Machine

/-! ## Reset, registers and buffers -/

/-- R440: `RESET` in every state, and the state after power-on; nothing runs until a command is issued. The instance's parameters and
the commands still to issue stay. Unspecified contents are contents that hold no value (notes/assumptions/5.md); the response and the command
list are the model's own fields (notes/assumptions/2.md, 3.md). -/
def Obligations.ResetState : Prop :=
  (∀ s : State, ∃ t, exec .reset s = .next t ∧ t.AtReset ∧ t.resp = ⟨0, []⟩ ∧ t.cfg = s.cfg ∧ t.cmds = s.cmds) ∧
  State.reset.AtReset ∧ step State.reset = .next State.reset

/-- R29, R35, R91: what `REG_READ` returns for every register number, and that it changes nothing else. -/
def Obligations.RegisterRead : Prop :=
  ∀ (s : State) (r : Word), ∃ v : Word,
    exec (.regRead r) s = .next (s.answered [v]) ∧
    (r = 0 → v = s.codec.setWidth 32) ∧ (r = 1 → v = s.opt.setWidth 32) ∧ (r = 2 → v = s.srcLen) ∧
    (r = 3 → v = s.skip) ∧ (r = 4 → v = s.msMode.setWidth 32) ∧ (r = 5 → v = s.msMaxOff) ∧
    (r = 6 → v = s.msMaxLen) ∧ (r = 7 → v = s.bbMaxInput) ∧
    (r = 8 → v.toNat = (dStateCode s.dState).toNat + (if s.dState = .done then 8 else 0) +
      (if s.fault then 16 else 0) + 256 * s.err.toNat) ∧
    (r = 9 → v = if s.fault then 0 else s.outLen) ∧ (r = 10 → v = s.rPos) ∧ (r = 11 → v = s.dTokens) ∧
    (11 < r → v = 0)

/-- R29, R91: what `REG_WRITE` stores, register by register: unnamed bits are dropped, and a write of a read-only register or of a
number above 11 is ignored. R7: a value register has `VAL_BITS` bits, of which the default 32 keep every word (that a narrower one keeps the low bits is DEDUCED,
notes/assumptions/4.md). -/
def Obligations.RegisterWrite : Prop :=
  ∀ (s : State) (r v : Word),
    exec (.regWrite r v) s = .next (State.answered [] { s with
      codec := if r = 0 then v.extractLsb' 0 3 else s.codec
      opt := if r = 1 then v.extractLsb' 0 7 else s.opt
      srcLen := if r = 2 then s.cfg.fit v else s.srcLen
      skip := if r = 3 then s.cfg.fit v else s.skip
      msMode := if r = 4 then v.extractLsb' 0 2 else s.msMode
      msMaxOff := if r = 5 then s.cfg.fit v else s.msMaxOff
      msMaxLen := if r = 6 then s.cfg.fit v else s.msMaxLen
      bbMaxInput := if r = 7 then s.cfg.fit v else s.bbMaxInput }) ∧
    (s.cfg.fit v).toNat = v.toNat % 2 ^ min s.cfg.valBits 32 ∧ (32 ≤ s.cfg.valBits → s.cfg.fit v = v)

/-- R91, R41, R181, R405: `SRC_WRITE` stores one byte, `OUT_READ` returns a byte below `out_len`, `MLEN_READ` an entry of a job in `RUN` mode; while
`FAULT = 1` both reads are unspecified and `OUT_LEN` reads 0. The model's choices: a read that has no specified value answers one word and
changes nothing but the model's count of such reads (DESIGN CHOICE, notes/assumptions/6.md), `MLEN_READ` answers the entry in `RUN` mode only (DESIGN CHOICE,
notes/assumptions/20.md), and a `SRC_WRITE` in the middle of a job takes effect at once (DESIGN CHOICE, notes/assumptions/7.md). -/
def Obligations.WindowAccess : Prop :=
  (∀ (s : State) (a v : Word), a < s.cfg.srcCap → ∃ m : Memory,
    exec (.srcWrite a v) s = .next (State.answered [] { s with src := m }) ∧
    Memory.read m a.toNat = some (v.extractLsb' 0 8) ∧
    ∀ b, b ≠ a.toNat → Memory.read m b = Memory.read s.src b) ∧
  (∀ (s : State) (a : Word) (v : Byte), s.fault = false → a < s.outLen → Memory.read s.out a.toNat = some v →
    exec (.outRead a) s = .next (s.answered [v.setWidth 32])) ∧
  (∀ (s : State) (a v : Word), s.fault = false → s.msMode = 2 → 1 ≤ a → a ≤ s.msMaxOff →
    s.mlen.read a.toNat = some v → exec (.mlenRead a) s = .next (s.answered [v])) ∧
  (∀ (s : State) (a : Word), s.fault = true ∨ s.outLen ≤ a →
    ∃ w, exec (.outRead a) s = .next (State.answered [w] { s with draws := s.draws + 1 })) ∧
  (∀ (s : State) (a : Word), s.fault = true →
    ∃ w, exec (.mlenRead a) s = .next (State.answered [w] { s with draws := s.draws + 1 })) ∧
  (∀ s : State, s.fault = true →
    exec (.regRead 9) s = .next (s.answered [0]) ∧ exec (.regRead 10) s = .next (s.answered [s.rPos]) ∧
    exec (.regRead 11) s = .next (s.answered [s.dTokens]))

/-! ## Faults -/

/-- R404 with the codes of R400: what taking a fault changes, and the response. -/
def Obligations.RaiseEffect : Prop :=
  ∀ (k : ErrKind) (s : State),
    finish (.raised k s) = .next { s with
      err := BitVec.ofNat 4 (faultCode k), fault := true, dState := .fault
      resp := ⟨BitVec.ofNat 32 (256 * faultCode k + 0x17), []⟩ }

/-- R406: while `FAULT = 1` every command but the allowed ones is refused, an undefined `OP` too: nothing changes but the response. The
pending command is the model's own field (notes/assumptions/2.md). -/
def Obligations.FaultIsSticky : Prop :=
  (∀ (i : Instr) (s : State), s.fault = true → i.isCommand = true → allowedInFault i = false →
    exec i s = .next (s.answered [])) ∧
  (∀ (s : State) (c : Command) (rest : List Command) (k : ErrKind), s.fault = true → s.cmds = c :: rest →
    decodeCommand c = .error k → step s = .next (State.answered [] { s with cmds := rest }))

/-- R407: the prologue of the four starting operations, and that no other command but `RESET` and `ABORT` clears `FAULT`. The tables
of a faulted job hold no value afterwards (R409, notes/assumptions/23.md). -/
def Obligations.LeavingTheFaultState : Prop :=
  (∀ s : State, s.fault = true → ∃ h p m : Table,
    s.clearFault = { s with
      dState := .idle, outLen := 0, wMask := 0, wIndex := 0, wBacktrack := false, fault := false, err := 0
      head := h, prev := p, mlen := m, epoch := s.epoch + 1 } ∧
    ∀ a, h.read a = none ∧ p.read a = none ∧ m.read a = none) ∧
  (∀ s : State, s.fault = false → s.clearFault = { s with err := 0 }) ∧
  (∀ s : State, ∀ i ∈ [Instr.bwInit, .brInit, .msInit, .tdStart], exec i s = exec i s.clearFault) ∧
  (∀ (i : Instr) (s t : State), i.isCommand = true → s.fault = true → exec i s = .next t → t.fault = false →
    leavesFault i = true)

/-- R412: `ABORT`. The tables hold no value any more. (DEDUCED, notes/assumptions/23.md) -/
def Obligations.AbortEffect : Prop :=
  ∀ s : State, ∃ h p m : Table,
    exec .abort s = .next { s with
      fault := false, err := 0, dState := .idle
      outLen := 0, wMask := 0, wIndex := 0, wBacktrack := false
      rPos := 0, rMask := 0, rIndex := 0, rBacktrack := false, rLast := 0, dMirror := false
      dTokens := 0, sPos := 0
      head := h, prev := p, mlen := m, epoch := s.epoch + 1, resp := ⟨0, []⟩ } ∧
    ∀ a, h.read a = none ∧ p.read a = none ∧ m.read a = none

/-- R90, R92, R107: every command's encoding decodes to it, and an `OP` outside the table raises `MalformedToken` and changes nothing
else. -/
def Obligations.CommandCodes : Prop :=
  (∀ i : Instr, i.isCommand = true → ∃ c, encodeCommand i = some c ∧ decodeCommand c = .ok i) ∧
  (∀ c : Command, (∃ k, decodeCommand c = .error k) ↔
    c.op.toNat ∉ [0x00, 0x01, 0x02, 0x03, 0x04, 0x05, 0x06, 0x10, 0x11, 0x12, 0x13, 0x14, 0x15, 0x20, 0x21, 0x22, 0x23,
      0x24, 0x30, 0x31, 0x32, 0x33, 0x34, 0x35, 0x36, 0x40, 0x41, 0x42, 0x43, 0x44, 0x50, 0x51, 0x52]) ∧
  (∀ (s : State) (c : Command) (rest : List Command) (k : ErrKind), s.fault = false → s.cmds = c :: rest →
    decodeCommand c = .error k → step s = finish (.raised .malformedToken { s with cmds := rest }))

/-- R403: a command raises only the kinds listed for it, and a step of a started job only those of its codec (with values of 32 bits; for DAN3 with the
default prefix codes, which leave no bits without meaning; for Pletter, once past the header, with a sentinel within 2^31, as every header sets it). Two exceptions are not in R403:
`EG_READ` with a limit above 32 raises `MalformedToken` and nothing else, as R153 says (DEDUCED, notes/assumptions/12.md), and so does a DAN3 step in an instance whose
`DAN3_ZERO_LIMIT` is above 32 (DEDUCED, notes/assumptions/25.md). The widths other than 32 are notes/assumptions/4.md. -/
def Obligations.RaisedKinds : Prop :=
  (∀ (i : Instr) (s t : State), i.isCommand = true → s.fault = false → 32 ≤ s.cfg.valBits → exec i s = .next t →
    t.fault = true → ∃ k ∈ raisable i, t.err.toNat = faultCode k) ∧
  (∀ s t : State, s.fault = false → 32 ≤ s.cfg.valBits → s.dState ≠ .idle →
    (s.codec = 4 → s.cfg.dan3Prefix = Config.standard.dan3Prefix) →
    (s.codec = 2 → s.dState ≠ .header → s.dSentinel ≠ 0 ∧ s.dSentinel ≤ 0x80000000) →
    exec .tdStep s = .next t → t.fault = true →
    (∃ k ∈ codecRaises s.codec, t.err.toNat = faultCode k) ∨
      (s.codec = 4 ∧ 32 < s.cfg.dan3ZeroLimit ∧ t.err.toNat = faultCode .malformedToken))

/-! ## The bit writer -/

/-- R120, R125: the registers `BW_INIT` and `BR_INIT` set, after `CLEAR_FAULT`. It voids the tables of a faulted job (DEDUCED,
notes/assumptions/23.md). -/
def Obligations.StreamStart : Prop :=
  (∀ s : State, exec .bwInit s = .next (State.answered []
    { s.clearFault with outLen := 0, wMask := 0, wIndex := 0, wBacktrack := false })) ∧
  (∀ s : State, exec .brInit s = .next (State.answered []
    { s.clearFault with
      rPos := 0, rMask := 0, rIndex := 0, rBacktrack := false, rLast := 0, dMirror := false }))

/-- R121: `WRITE_BIT` on every path. -/
def Obligations.WriteBitEffect : Prop :=
  ∀ (s : State) (v : Word), s.fault = false →
    -- the backtrack bit goes into bit 0 of the last byte
    (s.wBacktrack = true → v = 0 → exec (.writeBit v) s = .next (State.answered [] { s with wBacktrack := false })) ∧
    (s.wBacktrack = true → v ≠ 0 → 1 ≤ s.outLen → s.outLen ≤ s.cfg.outCap → ∃ m : Memory,
      exec (.writeBit v) s = .next (State.answered [] { s with wBacktrack := false, out := m }) ∧
      (∀ old, Memory.read s.out (s.outLen.toNat - 1) = some old →
        Memory.read m (s.outLen.toNat - 1) = some (old ||| 0x01)) ∧
      ∀ a, a ≠ s.outLen.toNat - 1 → Memory.read m a = Memory.read s.out a) ∧
    -- an open bit byte takes the bit at its mask
    (s.wBacktrack = false → s.wMask ≠ 0 → v = 0 →
      exec (.writeBit v) s = .next (State.answered [] { s with wMask := s.wMask >>> 1 })) ∧
    (s.wBacktrack = false → s.wMask ≠ 0 → v ≠ 0 → s.wIndex < s.outLen → s.wIndex < s.cfg.outCap → ∃ m : Memory,
      exec (.writeBit v) s = .next (State.answered [] { s with wMask := s.wMask >>> 1, out := m }) ∧
      (∀ old, Memory.read s.out s.wIndex.toNat = some old →
        Memory.read m s.wIndex.toNat = some (old ||| s.wMask)) ∧
      ∀ a, a ≠ s.wIndex.toNat → Memory.read m a = Memory.read s.out a) ∧
    -- with none open, one is reserved at the end of `OUT`
    (s.wBacktrack = false → s.wMask = 0 → s.outLen < s.cfg.outCap → ∃ m : Memory,
      exec (.writeBit v) s = .next (State.answered [] { s with
        wMask := 0x40, wIndex := s.outLen, outLen := s.outLen + 1, out := m }) ∧
      Memory.read m s.outLen.toNat = some (if v = 0 then 0x00 else 0x80) ∧
      ∀ a, a ≠ s.outLen.toNat → Memory.read m a = Memory.read s.out a) ∧
    (s.wBacktrack = false → s.wMask = 0 → s.outLen = s.cfg.outCap →
      exec (.writeBit v) s = finish (.raised .outputOverflow s))

/-- R122: `WRITE_BYTE`. -/
def Obligations.WriteByteEffect : Prop :=
  ∀ (s : State) (v : Word), s.fault = false →
    (s.outLen < s.cfg.outCap → ∃ t, s.appends t 1 (fun _ => v.extractLsb' 0 8) ∧
      exec (.writeByte v) s = .next (t.answered [])) ∧
    (s.outLen = s.cfg.outCap → exec (.writeByte v) s = finish (.raised .outputOverflow s))

/-- R123: `WRITE_BITS` is the `WRITE_BIT`s of the `size` low bits of a value of `VAL_BITS` bits, most significant first; above 32 it raises. -/
def Obligations.WriteBitsEffect : Prop :=
  ∀ (s : State) (value size : Word),
    (size ≤ 32 → s.writesBits size.toNat → ∃ t, after (writeBits (msbFirst (s.cfg.fit value).toNat size.toNat)) s = some t ∧
      exec (.writeBits value size) s = .next (t.answered [])) ∧
    (s.fault = false → 32 < size → exec (.writeBits value size) s = finish (.raised .malformedToken s))

/-- R124, R130, R131: the two backtrack flags, and `FLUSH`, which does nothing. -/
def Obligations.BacktrackFlagsAndFlush : Prop :=
  ∀ s : State, s.fault = false →
    (s.outLen ≠ 0 → exec .wSetBacktrack s = .next (State.answered [] { s with wBacktrack := true })) ∧
    (s.outLen = 0 → exec .wSetBacktrack s = finish (.raised .malformedToken s)) ∧
    exec .rSetBacktrack s = .next (State.answered [] { s with rBacktrack := true }) ∧
    exec .flush s = .next (s.answered [])

/-! ## The bit reader -/

/-- R126 and R223: `READ_BIT` on every path, forwards and mirrored. -/
def Obligations.ReadBitEffect : Prop :=
  ∀ s : State, s.fault = false →
    (s.rBacktrack = true →
      exec .readBit s = .next (State.answered [if s.rLast.getLsbD 0 then 1 else 0] { s with rBacktrack := false })) ∧
    (∀ v : Byte, s.rBacktrack = false → s.rMask ≠ 0 → s.rIndex < s.srcLen → s.srcLen ≤ s.cfg.srcCap →
      Memory.read s.src (s.physical s.rIndex.toNat) = some v →
      exec .readBit s = .next (State.answered [if v &&& s.rMask ≠ 0 then 1 else 0] { s with rMask := s.rMask >>> 1 })) ∧
    (∀ v : Byte, s.rBacktrack = false → s.rMask = 0 → s.rPos < s.srcLen → s.srcLen ≤ s.cfg.srcCap →
      Memory.read s.src (s.physical s.rPos.toNat) = some v →
      exec .readBit s = .next (State.answered [if v.getLsbD 7 then 1 else 0]
        { s with rIndex := s.rPos, rPos := s.rPos + 1, rMask := 0x40 })) ∧
    (s.rBacktrack = false → s.rMask = 0 → s.srcLen ≤ s.rPos → exec .readBit s = finish (.raised .truncatedStream s))

/-- R127 and R223: `READ_BYTE` on every path. -/
def Obligations.ReadByteEffect : Prop :=
  ∀ s : State, s.fault = false →
    (∀ v : Byte, s.rPos < s.srcLen → s.srcLen ≤ s.cfg.srcCap →
      Memory.read s.src (s.physical s.rPos.toNat) = some v →
      exec .readByte s = .next (State.answered [v.setWidth 32] { s with rPos := s.rPos + 1, rLast := v })) ∧
    (s.srcLen ≤ s.rPos → exec .readByte s = finish (.raised .truncatedStream s))

/-- R128: `READ_BITS` returns the value the next bits spell, most significant first; above 32 it raises. -/
def Obligations.ReadBitsEffect : Prop :=
  ∀ (s t : State) (size v : Word), s.fault = false →
    (size ≤ 32 → v.toNat < 2 ^ size.toNat → s.reads (bitElems (msbFirst v.toNat size.toNat)) t →
      exec (.readBits size) s = .next (t.answered [v])) ∧
    (32 < size → exec (.readBits size) s = finish (.raised .malformedToken s))

/-- R133: what a sequence of primitives writes after `BW_INIT` reads back, and the reader ends at the end of it. -/
def Obligations.PrimitiveRoundTrip : Prop :=
  ∀ (ps : List Prim) (s t u : State),
    ps.all Prim.ok = true → after (.bwInit :: ps.flatMap Prim.writes) s = some t →
    u.srcLen = t.outLen → u.srcLen ≤ u.cfg.srcCap →
    (∀ a, a < t.outLen.toNat → Memory.read u.src a = Memory.read t.out a) →
    ∃ w, runAll (.brInit :: ps.flatMap Prim.reads) u = some ([] :: ps.flatMap Prim.results, w) ∧ w.rPos = w.srcLen

/-- R134: the length of what a sequence of primitives writes. -/
def Obligations.WrittenSize : Prop :=
  ∀ (ps : List Prim) (s t : State),
    after (.bwInit :: ps.flatMap Prim.writes) s = some t →
    t.outLen.toNat = (ps.filter fun p => p.bits = 0).length + ((ps.filter fun p => p.bits = 1).length + 7) / 8

/-! ## The gamma unit -/

/-- R151, R158, R163: the gamma writers write their codewords bit by bit, and raise outside their domain. -/
def Obligations.GammaWriters : Prop :=
  (∀ (s : State) (v : Word), v ≠ 0 → s.writesBits (2 * Nat.log2 v.toNat + 1) →
    ∃ t, after (writeBits (codeEg v.toNat)) s = some t ∧ exec (.egWrite v) s = .next (t.answered [])) ∧
  (∀ (s : State) (v flags : Word), v ≠ 0 → s.writesBits (2 * Nat.log2 v.toNat + 1) →
    ∃ t, after (writeBits (codeIg (s.cfg.igCont ^^ flags.getLsbD 1) (flags.getLsbD 0) v.toNat)) s = some t ∧
      exec (.igWrite v flags) s = .next (t.answered [])) ∧
  (∀ (s : State) (v : Word), v.toNat ≤ 65534 → s.writesBits (2 * Nat.log2 (v.toNat + 1) + 1) →
    ∃ t, after (writeBits (codeBbg v.toNat)) s = some t ∧ exec (.bbgWrite v) s = .next (t.answered [])) ∧
  (∀ (s : State) (v flags : Word), s.fault = false →
    exec (.egWrite 0) s = finish (.raised .malformedToken s) ∧
    exec (.igWrite 0 flags) s = finish (.raised .malformedToken s) ∧
    (65535 ≤ v → exec (.bbgWrite v) s = finish (.raised .malformedToken s)))

/-- R153, R156: `EG_READ(limit)` on the codeword of a value below `2^limit`, on a run of `limit` zeros, and on a limit it refuses. R107, R169: on the codeword of a
value that does not fit `VAL_BITS`, it raises (that the reader then stands behind the codeword is the model's choice, DESIGN CHOICE,
notes/assumptions/4.md). -/
def Obligations.EgReadLaw : Prop :=
  ∀ (s t : State) (limit v : Word), s.fault = false →
    (limit ≤ 32 → v ≠ 0 → v.toNat < 2 ^ (if limit = 0 then 32 else limit.toNat) →
      s.reads (bitElems (codeEg v.toNat)) t →
      (v.toNat < 2 ^ s.cfg.valBits → exec (.egRead limit) s = .next (t.answered [v, 0])) ∧
      (2 ^ s.cfg.valBits ≤ v.toNat → exec (.egRead limit) s = finish (.raised .malformedToken t))) ∧
    (limit ≤ 32 → s.reads (bitElems (List.replicate (if limit = 0 then 32 else limit.toNat) false)) t →
      exec (.egRead limit) s = .next (t.answered [0, 1])) ∧
    (32 < limit → exec (.egRead limit) s = finish (.raised .malformedToken s))

/-- R160, R162, R169: `IG_READ` on the codeword of a value below the sentinel, on pairs that reach a sentinel which is a power of two,
and on the continuation tag that would leave `VAL_BITS` bits (32 by default; other widths are the model's reading, notes/assumptions/4.md). -/
def Obligations.IgReadLaw : Prop :=
  ∀ (s t : State) (sentinel flags v : Word), s.fault = false →
    (v ≠ 0 → (sentinel = 0 ∨ v < sentinel) → v.toNat < 2 ^ s.cfg.valBits →
      s.reads (bitElems (codeIg (s.cfg.igCont ^^ flags.getLsbD 1) (flags.getLsbD 0) v.toNat)) t →
      exec (.igRead sentinel flags) s = .next (t.answered [v, 0])) ∧
    (∀ bs : List Bool, 1 ≤ bs.length → bs.length < s.cfg.valueBits → sentinel.toNat = 2 ^ bs.length →
      s.reads (bitElems (bs.flatMap fun b => [s.cfg.igCont ^^ flags.getLsbD 1, b])) t →
      exec (.igRead sentinel flags) s = .next (t.answered [0, 1])) ∧
    (∀ bs : List Bool, bs.length + 1 = s.cfg.valueBits → sentinel = 0 →
      s.reads (bitElems ((bs.flatMap fun b => [s.cfg.igCont ^^ flags.getLsbD 1, b]) ++
        [s.cfg.igCont ^^ flags.getLsbD 1])) t →
      exec (.igRead sentinel flags) s = finish (.raised .malformedToken t))

/-- R164: `BBG_READ` on a codeword and on the end run. R107, R169: on the codeword of a value that does not fit `VAL_BITS` it raises (that it is the value and not the
number one above it that has to fit, and that the reader then stands behind the codeword, is DESIGN CHOICE, notes/assumptions/4.md). -/
def Obligations.BbgReadLaw : Prop :=
  ∀ (s t : State) (v : Word), s.fault = false →
    (v.toNat ≤ 65534 → s.reads (bitElems (codeBbg v.toNat)) t →
      (v.toNat < 2 ^ s.cfg.valBits → exec .bbgRead s = .next (t.answered [v, 0])) ∧
      (2 ^ s.cfg.valBits ≤ v.toNat → exec .bbgRead s = finish (.raised .malformedToken t))) ∧
    (s.reads (bitElems (List.replicate 16 true)) t → exec .bbgRead s = .next (t.answered [0, 1]))

/-- R166: `GAMMA_BITS`. -/
def Obligations.GammaBitsValue : Prop :=
  ∀ (s : State) (v : Word), s.fault = false →
    (v ≠ 0 → exec (.gammaBits v) s = .next (s.answered [BitVec.ofNat 32 (2 * Nat.log2 v.toNat + 1)])) ∧
    (v = 0 → exec (.gammaBits v) s = finish (.raised .malformedToken s))

/-! ## The match scanner -/

/-- R182 with the order of R408: `MS_INIT` in every configuration. R41: the entries it does not write hold no value for the new job (the model's
`epoch` counts that, notes/assumptions/5.md; for `PREV`, which R40 leaves as it is, DEDUCED, notes/assumptions/23.md). -/
def Obligations.ScanStart : Prop :=
  ∀ s : State,
    let c := s.clearFault
    (s.msMode = 3 ∨ s.msMaxOff = 0 ∨ s.cfg.srcCap < s.msMaxOff ∨ s.msMaxLen = 0 →
      exec .msInit s = finish (.raised .malformedToken c)) ∧
    (s.msMode ≠ 3 → s.msMaxOff ≠ 0 → s.msMaxOff ≤ s.cfg.srcCap → s.msMaxLen ≠ 0 →
      (s.inputLimit < s.srcLen.toNat → exec .msInit s = finish (.raised .inputTooLarge c)) ∧
      (s.srcLen.toNat ≤ s.inputLimit → ∃ h p m : Table,
        exec .msInit s = .next (State.answered []
          { c with sPos := 0, head := h, prev := p, mlen := m, epoch := c.epoch + 1 }) ∧
        (∀ a, h.read a = if s.msMode = 0 ∧ a < 65536 then some s.cfg.nil else none) ∧
        (∀ a, m.read a = if s.msMode = 2 ∧ a ≤ s.msMaxOff.toNat then some 0 else none) ∧
        ∀ a, p.read a = none))

/-- R183, R184: `MS_INSERT`. -/
def Obligations.InsertEffect : Prop :=
  ∀ (s : State) (i : Word), s.fault = false → s.msMode = 0 →
    (i = 0 ∨ s.srcLen ≤ i ∨ i < s.sPos → exec (.msInsert i) s = finish (.raised .malformedToken s)) ∧
    (i ≠ 0 → i < s.srcLen → s.sPos ≤ i → s.srcLen ≤ s.cfg.srcCap → s.canonical = true →
      ∃ h p : Table,
        exec (.msInsert i) s = .next (State.answered [] { s with head := h, prev := p, sPos := i + 1 }) ∧
        ∀ key, key = (s.srcByte (i.toNat - 1)).toNat * 256 + (s.srcByte i.toNat).toNat →
          h.read key = some i ∧ (∀ k, k ≠ key → h.read k = s.head.read k) ∧
          (∀ old, s.head.read key = some old → p.read i.toNat = some old) ∧
          (∀ a, a ≠ i.toNat → p.read a = s.prev.read a))

/-- R183, R184: the chains of a scan job stay what R183 describes. -/
def Obligations.ChainsAreKept : Prop :=
  (∀ s t : State, s.canonical = true → s.msMode = 0 → s.cfg.srcCap ≤ s.cfg.nil → exec .msInit s = .next t →
    t.fault = false → t.chainsOk) ∧
  (∀ (s t : State) (i : Word), s.chainsOk → s.msMode = 0 → exec (.msInsert i) s = .next t → t.fault = false → t.chainsOk)

/-- R185, R188 without the skip-step: `MS_WALK` lists the nodes below `i` in range, newest first, with their extents, and writes no
table. -/
def Obligations.WalkResult : Prop :=
  ∀ (s : State) (i : Word), s.fault = false → s.msMode = 0 →
    (i = 0 ∨ s.srcLen ≤ i → exec (.msWalk i) s = finish (.raised .malformedToken s)) ∧
    (∀ js : List Word, i ≠ 0 → i < s.srcLen → s.srcLen ≤ s.cfg.srcCap → (s.codec ≠ 3 ∨ s.opt.getLsbD 6 = false) →
      s.isChain (s.headEntry ((s.srcByte (i.toNat - 1)).toNat * 256 + (s.srcByte i.toNat).toNat)) js →
      js.Pairwise (· > ·) →
      exec (.msWalk i) s = .next (s.answered (pairWords
        (((js.filter fun j => j < i).takeWhile fun j => i.toNat - j.toNat ≤ s.msMaxOff.toNat).map
          fun j => (i.toNat - j.toNat, s.backExtent i.toNat j.toNat)))))

/-- R196 for `MS_WALK`, with or without the skip-step of R190: every pair is a true match of maximal extent, in ascending offset. -/
def Obligations.WalkSoundness : Prop :=
  ∀ (s : State) (i : Word), s.chainsOk → s.fault = false → s.msMode = 0 → s.msMaxLen ≠ 0 → i ≠ 0 → i < s.srcLen →
    ∃ ps : List (Nat × Nat), exec (.msWalk i) s = .next (s.answered (pairWords ps)) ∧
      ps.Pairwise (fun p q => p.1 < q.1) ∧
      ∀ p ∈ ps, 1 ≤ p.1 ∧ p.1 ≤ min s.msMaxOff.toNat i.toNat ∧
        1 ≤ p.2 ∧ p.2 ≤ min s.msMaxLen.toNat (i.toNat - p.1 + 1) ∧
        (∀ k, k < p.2 → s.srcByte (i.toNat - k) = s.srcByte (i.toNat - p.1 - k)) ∧
        (p.2 < min s.msMaxLen.toNat (i.toNat - p.1 + 1) →
          s.srcByte (i.toNat - p.2) ≠ s.srcByte (i.toNat - p.1 - p.2))

/-- R196, completeness of `MS_WALK` with the skip-step off: if every position below `i` was inserted, exactly the offsets in range whose
two bytes match are listed. -/
def Obligations.WalkCompleteness : Prop :=
  ∀ (s : State) (i : Word) (js : List Word), s.chainsOk → s.fault = false → s.msMode = 0 → i ≠ 0 → i < s.srcLen →
    (s.codec ≠ 3 ∨ s.opt.getLsbD 6 = false) →
    s.isChain (s.headEntry (s.keyAt i.toNat)) js →
    (∀ j : Word, 1 ≤ j → j < i → s.keyAt j.toNat = s.keyAt i.toNat → j ∈ js) →
    ∃ ps : List (Nat × Nat), exec (.msWalk i) s = .next (s.answered (pairWords ps)) ∧
      ∀ o, (∃ l, (o, l) ∈ ps) ↔ 1 ≤ o ∧ o ≤ min s.msMaxOff.toNat (i.toNat - 1) ∧
        s.srcByte (i.toNat - 1) = s.srcByte (i.toNat - o - 1) ∧ s.srcByte i.toNat = s.srcByte (i.toNat - o)

/-- R192 and R196 for `MS_LINEAR`: the offsets in range at which at least one byte matches, ascending, with their extents. -/
def Obligations.LinearResult : Prop :=
  ∀ (s : State) (i : Word), s.fault = false → s.msMode = 1 →
    (s.srcLen ≤ i → exec (.msLinear i) s = finish (.raised .malformedToken s)) ∧
    (i < s.srcLen → s.srcLen ≤ s.cfg.srcCap →
      exec (.msLinear i) s = .next (s.answered (pairWords
        (((List.range (min s.msMaxOff.toNat i.toNat)).map fun o => (o + 1, s.forwardExtent i.toNat (o + 1))).filter
          fun p => 1 ≤ p.2))))

/-- R193, R194: `MS_STEP_RUN`. -/
def Obligations.StepRunEffect : Prop :=
  ∀ s : State, s.fault = false → s.msMode = 2 →
    (s.srcLen ≤ s.sPos → exec .msStepRun s = finish (.raised .malformedToken s)) ∧
    (s.sPos < s.srcLen → s.srcLen ≤ s.cfg.srcCap → s.canonical = true → ∃ m : Table,
      exec .msStepRun s = .next (State.answered [s.sPos] { s with mlen := m, sPos := s.sPos + 1 }) ∧
      (∀ (off : Nat) (run : Word), 1 ≤ off → off ≤ min s.msMaxOff.toNat s.sPos.toNat → s.mlen.read off = some run →
        m.read off = some (if s.srcByte s.sPos.toNat = s.srcByte (s.sPos.toNat - off) then run + 1 else 0)) ∧
      (∀ off, off = 0 ∨ min s.msMaxOff.toNat s.sPos.toNat < off → m.read off = s.mlen.read off))

/-- R181: an `MS_*` operation in a mode it is not legal in raises and changes nothing else. -/
def Obligations.ScanModes : Prop :=
  ∀ (s : State) (i : Word), s.fault = false →
    (s.msMode ≠ 0 → exec (.msInsert i) s = finish (.raised .malformedToken s) ∧
      exec (.msWalk i) s = finish (.raised .malformedToken s)) ∧
    (s.msMode ≠ 1 → exec (.msLinear i) s = finish (.raised .malformedToken s)) ∧
    (s.msMode ≠ 2 → exec .msStepRun s = finish (.raised .malformedToken s))

/-! ## The token decoder -/

/-- R210: `TD_START`. `clearFault` voids the tables of a faulted job (DEDUCED, notes/assumptions/23.md); the writer's
other registers stay (notes/assumptions/18.md). -/
def Obligations.DecodeStart : Prop :=
  ∀ s t : State,
    t = { s.clearFault with
      rPos := 0, rMask := 0, rIndex := 0, rBacktrack := false, rLast := 0
      outLen := 0, dLastOffset := s.cfg.fit s.cfg.zx0InitialOffset, dQ := 0, dSubset := 0, dSentinel := 0, dHdrLen := 0
      dTokens := 0, dMirror := s.codec = 6 && s.opt.getLsbD 1, dState := .header } →
    (s.srcLen ≤ s.cfg.srcCap → exec .tdStart s = .next (t.answered [])) ∧
    (s.cfg.srcCap < s.srcLen → exec .tdStart s = finish (.raised .inputTooLarge t))

/-- R211, R216: the steps of `TD_STEP` that read nothing, and `TD_RUN` beside them (R213). -/
def Obligations.StepWithoutReading : Prop :=
  ∀ s : State, s.fault = false →
    (s.dState = .idle → exec .tdStep s = finish (.raised .malformedToken s) ∧
      exec .tdRun s = finish (.raised .malformedToken s)) ∧
    (s.dState = .done → exec .tdStep s = .next (s.answered []) ∧ exec .tdRun s = .next (s.answered [])) ∧
    (s.dState = .header → s.srcLen = 0 → s.codec ∉ [(0 : BitVec 3), 7] →
      exec .tdStep s = .next (State.answered [] { s with dState := .done }) ∧
      exec .tdRun s = .next (State.answered [] { s with dState := .done }))

/-- R211: in a token state `TD_STEP` is the token it fetches, or the fault the fetch raises. -/
def Obligations.StepRunsTheToken : Prop :=
  ∀ (s t : State) (e : Element), s.fault = false → s.dState ∈ [DState.token, .zx0Lit, .zx0Last, .zx0New] →
    s.tokenElement = .ok e →
    (∀ i, fetchElement e s = .ok i t → exec .tdStep s = exec i t) ∧
    (∀ k, fetchElement e s = .raised k t → exec .tdStep s = finish (.raised k t))

/-- R211, R217: the header step, codec by codec. -/
def Obligations.StepRunsTheHeader : Prop :=
  ∀ s : State, s.fault = false → s.dState = .header →
    (s.codec = 0 ∨ (s.codec = 1 ∧ s.srcLen ≠ 0) → exec .tdStep s = exec .tdStep { s with dState := .token }) ∧
    (s.codec = 6 → s.srcLen ≠ 0 → exec .tdStep s = exec .tdStep { s with dState := .zx0Lit }) ∧
    (∀ (e : Element) (i : Instr) (t : State),
      (s.codec, e) ∈ [((3 : BitVec 3), Element.dan1First), (5, .zx7First), (7, .bbLen)] →
      (s.codec = 7 ∨ s.srcLen ≠ 0) → fetchElement e s = .ok i t → exec .tdStep s = exec i t) ∧
    (∀ (i : Instr) (t : State), s.codec = 2 → s.srcLen ≠ 0 → s.opt.getLsbD 3 = true →
      fetchElement .pltFirst { s with dQ := 2, dSentinel := s.cfg.fit 131072 } = .ok i t → exec .tdStep s = exec i t) ∧
    (∀ (i j : Instr) (t u w : State), s.codec = 2 → s.srcLen ≠ 0 → s.opt.getLsbD 3 = false →
      fetchElement .pltQ s = .ok i t → runToken i t = .ok () u → fetchElement .pltFirst u = .ok j w →
      exec .tdStep s = exec j w) ∧
    (∀ (i j : Instr) (t u w : State), s.codec = 4 → s.srcLen ≠ 0 →
      fetchElement .dan3Subset { s with dSubset := 0 } = .ok i t → runToken i t = .ok () u →
      fetchElement .dan3First u = .ok j w → exec .tdStep s = exec j w)

/-- R211 with R275, R293, R314, R333, R383: a `TD_STEP` that meets a literal, from the stream to the output. -/
def Obligations.StepOverALiteral : Prop :=
  ∀ (s t : State) (tag : Bool) (v : Byte), s.fault = false → s.dState = .token →
    (s.codec ∈ [(2 : BitVec 3), 5, 7] ∧ tag = false ∨ s.codec ∈ [(3 : BitVec 3), 4] ∧ tag = true) →
    s.reads [.bit tag, .byte v] t → s.roomFor 1 →
    ∃ u, t.appends u 1 (fun _ => v) ∧ exec .tdStep s = .next (u.stepped .token)

/-- R213: `TD_RUN` ends, in `D_DONE` or with a fault, on every stream. -/
def Obligations.RunTerminates : Prop :=
  ∀ s : State, s.jobOk → s.dState ≠ .idle →
    ∃ t, exec .tdRun s = .next t ∧ (t.dState = .done ∨ t.dState = .fault) ∧ (t.dState = .fault ↔ t.fault = true)

/-- R213: `TD_RUN` gives what issuing the same `TD_STEP`s one by one gives. -/
def Obligations.RunIsSteps : Prop :=
  ∀ s t : State, s.jobOk → exec .tdStep s = .next t →
    (t.fault = false → exec .tdRun s = exec .tdRun t) ∧ (t.fault = true → exec .tdRun s = .next t)

/-- R27, R220: a step that goes on has consumed at least one bit, and `r_pos` never decreases. -/
def Obligations.StepConsumes : Prop :=
  ∀ s t : State, s.jobOk → exec .tdStep s = .next t →
    s.rPos ≤ t.rPos ∧ (t.dState ∈ [DState.token, .zx0Lit, .zx0Last, .zx0New] → t.unread < s.unread)

/-! ## Tokens -/

/-- R215: `COPY` on every path; the bytes repeat with period `offset`, and a copy that does not fit has filled `OUT`. -/
def Obligations.CopyEffect : Prop :=
  ∀ (s : State) (offset length : Nat),
    (offset < 1 ∨ s.outLen.toNat < offset → copy offset length s = .raised .invalidBackReference s) ∧
    (1 ≤ offset → offset ≤ s.outLen.toNat → s.roomFor length →
      ∃ t, copy offset length s = .ok () t ∧
        s.appends t length (fun k => s.outByte (s.outLen.toNat - offset + k % offset))) ∧
    (1 ≤ offset → offset ≤ s.outLen.toNat → s.outLen ≤ s.cfg.outCap → ¬ s.roomFor length →
      ∃ t, copy offset length s = .raised .outputOverflow t ∧
        s.appends t (s.cfg.outCap.toNat - s.outLen.toNat)
          (fun k => s.outByte (s.outLen.toNat - offset + k % offset)))

/-- R250, R251, R276, R294, R315, R334, R384: every match token copies at the offset and length its fields spell. A token issued by itself
is the rest of the `TD_STEP` that fetched it (DESIGN CHOICE, notes/assumptions/15.md). -/
def Obligations.MatchTokens : Prop :=
  ∀ (i : Instr) (s : State) (offset length : Nat), matchShape i = some (offset, length) → s.fault = false →
    (offset ≤ s.outLen.toNat → s.roomFor length → ∃ u,
      s.appends u length (fun k => s.outByte (s.outLen.toNat - offset + k % offset)) ∧
      exec i s = .next (u.stepped .token)) ∧
    (s.outLen.toNat < offset → exec i s = finish (.raised .invalidBackReference s))

/-- R98 to R103 and R105: every match field spells an offset of at least 1 and at most the format's largest. -/
def Obligations.OffsetRanges : Prop :=
  (∀ control hi lo o l, matchShape (.lzfShort control hi lo) = some (o, l) → 1 ≤ o ∧ o ≤ 8192) ∧
  (∀ hi len9 lo o l, (Instr.lzfLong hi len9 lo).wf = true → matchShape (.lzfLong hi len9 lo) = some (o, l) →
    1 ≤ o ∧ o ≤ 7936 ∧ 9 ≤ l ∧ l ≤ 264) ∧
  (∀ (c : DecodeCtx) g bo extra o l, c.q ≠ 0 → encodableIn c (.pltMatch g bo extra) = true →
    matchShape (.pltMatch g bo extra) = some (o, l) → 1 ≤ o ∧ o ≤ 128 * 2 ^ (c.q.toNat - 1) ∧ 2 ≤ l) ∧
  (∀ len off o l, (Instr.dan1Match len off).wf = true → matchShape (.dan1Match len off) = some (o, l) →
    1 ≤ o ∧ o ≤ (if l = 1 then 18 else if l = 2 then 274 else 4370) ∧ 1 ≤ l ∧ l ≤ 65535) ∧
  (∀ (c : DecodeCtx) len off o l, encodableIn c (.dan3Match len off) = true →
    matchShape (.dan3Match len off) = some (o, l) →
    1 ≤ o ∧ o ≤ (if l = 1 then 3 else 2 ^ (9 + c.subset.toNat) + 32 + 256)) ∧
  (∀ g bo high o l, (Instr.zx7Match g bo high).wf = true → matchShape (.zx7Match g bo high) = some (o, l) →
    1 ≤ o ∧ o ≤ 2176 ∧ 2 ≤ l ∧ l ≤ 65536) ∧
  (∀ d hi g o l, (Instr.bbMatch d hi g).wf = true → matchShape (.bbMatch d hi g) = some (o, l) →
    1 ≤ o ∧ o ≤ 2048 ∧ 2 ≤ l ∧ l ≤ 65536)

/-- R272, R275, R291, R293, R311, R314, R331, R333, R383: the tokens that append one byte. A token issued by itself
is the rest of the `TD_STEP` that fetched it (DESIGN CHOICE, notes/assumptions/15.md). -/
def Obligations.LiteralTokens : Prop :=
  ∀ (i : Instr) (s : State) (v : Byte), literalOf i = some v → s.fault = false →
    (s.outLen < s.cfg.outCap → ∃ u, s.appends u 1 (fun _ => v) ∧ exec i s = .next (u.stepped .token)) ∧
    (s.outLen = s.cfg.outCap → exec i s = finish (.raised .outputOverflow s))

/-- R242, R253, R296, R318 with R214: the tokens that copy payload bytes from the stream; a truncated run has written the bytes that were
there. R243: `MDK.RLE`. A token issued by itself
is the rest of the `TD_STEP` that fetched it (DESIGN CHOICE, notes/assumptions/15.md). -/
def Obligations.RunTokens : Prop :=
  (∀ (i : Instr) (s t : State) (bytes : List Byte) (n : Nat), runLength i = some n → s.fault = false →
      s.reads (bytes.map .byte) t → s.roomFor bytes.length →
      ∃ u, t.appends u bytes.length (fun k => bytes.getD k 0) ∧
        (bytes.length = n → exec i s = .next (u.stepped .token)) ∧
        (bytes.length < n → t.srcLen ≤ t.rPos → exec i s = finish (.raised .truncatedStream u))) ∧
  (∀ (s : State) (c : BitVec 7) (v : Byte), s.fault = false → s.roomFor (c.toNat + 1) →
      ∃ u, s.appends u (c.toNat + 1) (fun _ => v) ∧ exec (.mdkRle c v) s = .next (u.stepped .token))

/-- R218, R244, R252, R277, R298, R319, R336: the END tokens that only end the job. R386, R388: `BB.END` checks the declared length
first. A token issued by itself
is the rest of the `TD_STEP` that fetched it (DESIGN CHOICE, notes/assumptions/15.md). -/
def Obligations.EndTokens : Prop :=
  ∀ s : State, s.fault = false →
    (∀ i ∈ [Instr.mdkEnd, .lzfEnd, .pltEnd, .dan1End, .dan3End, .zx7End], exec i s = .next (s.stepped .done)) ∧
    (s.outLen = s.dHdrLen → exec .bbEnd s = .next (s.stepped .done)) ∧
    (s.outLen ≠ s.dHdrLen → exec .bbEnd s = finish (.raised .invalidHeader s))

/-- R272, R311, R381: the header elements `PLT.Q`, `DAN3.SUBSET` and `BB.LEN`. A token issued by itself
is the rest of the `TD_STEP` that fetched it (DESIGN CHOICE, notes/assumptions/15.md). -/
def Obligations.HeaderTokens : Prop :=
  ∀ s : State, s.fault = false →
    (∀ u : BitVec 3, u ≠ 7 →
      exec (.pltQ u) s = .next (State.answered [] { s with dQ := u + 1, dSentinel := s.cfg.fit s.cfg.pletterSentinel })) ∧
    exec (.pltQ 7) s = finish (.raised .invalidQValue s) ∧
    (∀ n : BitVec 3, exec (.dan3Subset n) s = .next (State.answered [] { s with dSubset := n })) ∧
    (∀ n : Word,
      (s.bbMaxInput < n → exec (.bbLen n) s = finish (.raised .invalidHeader { s with dHdrLen := s.cfg.fit n })) ∧
      (n ≠ 0 → n ≤ s.bbMaxInput → exec (.bbLen n) s = .next (State.stepped { s with dHdrLen := s.cfg.fit n } .token)) ∧
      (n = 0 → exec (.bbLen n) s = .next (State.stepped { s with dHdrLen := 0 } .done)))

/-- R351, R354: `ZX0.LITS`. A token issued by itself
is the rest of the `TD_STEP` that fetched it (DESIGN CHOICE, notes/assumptions/15.md). -/
def Obligations.Zx0LiteralRun : Prop :=
  ∀ (s t : State) (bytes : List Byte) (b : Bool), s.fault = false →
    s.reads (bytes.map .byte ++ [.bit b]) t → s.roomFor bytes.length →
    ∃ u, t.appends u bytes.length (fun k => bytes.getD k 0) ∧
      exec (.zx0Lits (BitVec.ofNat 32 bytes.length)) s = .next (u.stepped (if b then .zx0New else .zx0Last))

/-- R351, R355: `ZX0.REP` copies at the last offset and keeps it. A token issued by itself
is the rest of the `TD_STEP` that fetched it (DESIGN CHOICE, notes/assumptions/15.md). -/
def Obligations.Zx0RepeatedOffset : Prop :=
  ∀ (s : State) (len : Word), s.fault = false →
    (∀ (t : State) (b : Bool), s.reads [.bit b] t → 1 ≤ s.dLastOffset → s.dLastOffset ≤ s.outLen → s.roomFor len.toNat →
      ∃ u, t.appends u len.toNat
        (fun k => s.outByte (s.outLen.toNat - s.dLastOffset.toNat + k % s.dLastOffset.toNat)) ∧
      exec (.zx0Rep len) s = .next (u.stepped (if b then .zx0New else .zx0Lit))) ∧
    (s.dLastOffset = 0 ∨ s.outLen < s.dLastOffset → exec (.zx0Rep len) s = finish (.raised .invalidBackReference s))

/-- R351, R356: `ZX0.MATCH`: its offset becomes the last offset, and its length code starts with the shared bit of the offset
byte. A token issued by itself
is the rest of the `TD_STEP` that fetched it (DESIGN CHOICE, notes/assumptions/15.md). -/
def Obligations.Zx0NewOffset : Prop :=
  ∀ (s r t : State) (msb : Word) (bo : Byte) (offset length : Nat) (b : Bool), s.fault = false →
    1 ≤ msb → msb ≤ 255 → offset = msb.toNat * 128 - bo.toNat / 2 → 2 ≤ length → length < 2 ^ s.cfg.valueBits →
    offset < 2 ^ s.cfg.valueBits →
    s.rLast = bo → r = { s with dLastOffset := BitVec.ofNat 32 offset, rBacktrack := true } →
    r.reads (bitElems (codeIg (s.cfg.igCont ^^ s.opt.getLsbD 1) false (length - 1))) t →
    1 ≤ offset ∧ offset ≤ 32640 ∧
    (s.outLen.toNat < offset → exec (.zx0Match msb bo) s = finish (.raised .invalidBackReference t)) ∧
    (∀ w : State, t.reads [.bit b] w → offset ≤ s.outLen.toNat → s.roomFor length → ∃ u,
      w.appends u length (fun k => s.outByte (s.outLen.toNat - offset + k % offset)) ∧
      exec (.zx0Match msb bo) s = .next (u.stepped (if b then .zx0New else .zx0Lit)))

/-- R218, R356, R360: `ZX0.END`, which reverses the output of a mirrored job. A token issued by itself
is the rest of the `TD_STEP` that fetched it (DESIGN CHOICE, notes/assumptions/15.md). -/
def Obligations.Zx0End : Prop :=
  ∀ s : State, s.fault = false →
    (s.dMirror = false → exec .zx0End s = .next (s.stepped .done)) ∧
    (s.dMirror = true → s.outWritten → ∃ m : Memory,
      exec .zx0End s = .next (State.stepped { s with out := m } .done) ∧
      (∀ a, a < s.outLen.toNat → Memory.read m a = Memory.read s.out (s.outLen.toNat - 1 - a)) ∧
      ∀ a, s.outLen.toNat ≤ a → Memory.read m a = Memory.read s.out a)

/-! ## Encoding -/

/-- R97 to R105, R224: every token, with every operand its format admits, decodes from its own elements, whatever follows, and leaves
only what the decoder does not read. The parameters' forms and Pletter's END for
other sentinels are the model's (notes/assumptions/16.md, 24.md). -/
def Obligations.TokenRoundTrip : Prop :=
  ∀ (c : DecodeCtx) (i : Instr) (e : Element) (rest : List Elem),
    c.cfg.sound = true → encodableIn c i = true → elementOf i = some e →
    decodeElement (elemPort Unit) c e (encodeElems c i ++ rest) = .ok i (unreadElems i ++ rest)

/-- R94, R211: the machine fetches a token whose elements stand next in its stream, bit bytes and payload bytes interleaved as R126 and
R127 have them. -/
def Obligations.FetchFromTheStream : Prop :=
  ∀ (s t : State) (i : Instr) (e : Element) (es : List Elem),
    s.cfg.sound = true → encodableIn s.decodeCtx i = true → elementOf i = some e →
    encodeElems s.decodeCtx i = es ++ unreadElems i → s.reads es t →
    fetchElement e s = .ok i { t with dSubset := match i with
      | .dan3Subset n => s.dSubset + n
      | _ => s.dSubset }

/-- Words written out from the encodings of R92, R97, R98, R103, R105, and the elements that the emit sequences of R224 write for a match of R358 and for the
stream of R362, written out from these rules (the numbering of command words is notes/assumptions/1.md, the notation of tokens R108's). -/
def Obligations.DecodedWords : Prop :=
  decodeTableWord 8 0x50 = some .tdStart ∧ decodeTableWord 8 0x44 = some .msStepRun ∧
  decodeTableWord 16 0x5585 = some (.mdkRle 5 0x55) ∧ decodeTableWord 24 0x010BE2 = some (.lzfLong 2 0x0B 0x01) ∧
  decodeElement (elemPort Unit) tableCtx .zx7Token [.bit true, .bit false, .bit false, .bit true, .bit false, .bit true,
    .byte 0x81, .bit false, .bit false, .bit false, .bit true] = .ok (.zx7Match 5 0x81 1) [] ∧
  decodeElement (elemPort Unit) tableCtx .bbToken [.bit true, .byte 0x01, .bit true, .bit true, .bit false, .bit false,
    .bit true] = .ok (.bbMatch 0x01 0 4) [] ∧
  tokenElems .zx0 tableCtx (.backRef 129 3) =
    some [.bit true, .bit true, .bit false, .byte 0xFF, .bit false, .bit false] ∧
  streamElems .zx0 tableCtx [.raw [0x41, 0x42], .backRef 2 6, .stop] =
    some ([.bit true, .bit false, .bit false, .byte 0x41, .byte 0x42, .bit true, .bit false, .byte 0xFD, .bit false, .bit true,
      .bit true, .bit false, .bit true] ++ List.replicate 16 (.bit true) ++ [.bit false])

/-! ## The machine -/

/-- R90: a step performs the transaction of the next command: it is `exec` of the instruction the command decodes to, on the state with
that command taken from the list; with no command it changes nothing. The list of commands
is the model's own (DESIGN CHOICE, notes/assumptions/2.md). -/
def Obligations.StepRunsTheCommand : Prop :=
  (∀ (s : State) (c : Command) (rest : List Command) (i : Instr), s.cmds = c :: rest → decodeCommand c = .ok i →
    step s = exec i { s with cmds := rest }) ∧
  (∀ s : State, s.cmds = [] → step s = .next s)

/-- Every step keeps the invariant: canonical memory and tables within their sizes, the bytes of `OUT` below `out_len` written (R41), the
masks of R22 and R23, `d_state = D_FAULT` exactly when `FAULT = 1` (R407), and value registers of `VAL_BITS` bits (R7, R9; DEDUCED, notes/assumptions/4.md). -/
def Obligations.InvariantIsKept : Prop :=
  ∀ s t : State, s.Inv → step s = .next t → t.Inv

/-- The invariant holds after reset. -/
def Obligations.InvariantAtReset : Prop := State.reset.Inv

/-- R61, R21: no operation of the engine writes `SRC` (only the host's `SRC_WRITE`, and `RESET`, after which it holds no value), changes the
parameters, or touches the commands to come. -/
def Obligations.SourceIsReadOnly : Prop :=
  ∀ (i : Instr) (s t : State), exec i s = .next t →
    t.cfg = s.cfg ∧ t.cmds = s.cmds ∧ (i ≠ .reset → (∀ a v, i ≠ .srcWrite a v) → t.src = s.src)
end

