-- ==== Sys2Proof/Laws/State.lean ====
section
/-! SUPPORT. What each named update of the state leaves in each field, true by definition, so that no proof unfolds a record
update. -/

namespace Sys2Proof.Machine

@[simp] theorem State.raise_cfg (k : ErrKind) (s : State) : (State.raise k s).cfg = s.cfg := rfl
@[simp] theorem State.raise_outLen (k : ErrKind) (s : State) : (State.raise k s).outLen = s.outLen := rfl
@[simp] theorem State.raise_wMask (k : ErrKind) (s : State) : (State.raise k s).wMask = s.wMask := rfl
@[simp] theorem State.raise_wIndex (k : ErrKind) (s : State) : (State.raise k s).wIndex = s.wIndex := rfl
@[simp] theorem State.raise_wBacktrack (k : ErrKind) (s : State) : (State.raise k s).wBacktrack = s.wBacktrack := rfl
@[simp] theorem State.raise_rPos (k : ErrKind) (s : State) : (State.raise k s).rPos = s.rPos := rfl
@[simp] theorem State.raise_rMask (k : ErrKind) (s : State) : (State.raise k s).rMask = s.rMask := rfl
@[simp] theorem State.raise_rIndex (k : ErrKind) (s : State) : (State.raise k s).rIndex = s.rIndex := rfl
@[simp] theorem State.raise_rBacktrack (k : ErrKind) (s : State) : (State.raise k s).rBacktrack = s.rBacktrack := rfl
@[simp] theorem State.raise_rLast (k : ErrKind) (s : State) : (State.raise k s).rLast = s.rLast := rfl
@[simp] theorem State.raise_dState (k : ErrKind) (s : State) : (State.raise k s).dState = .fault := rfl
@[simp] theorem State.raise_dLastOffset (k : ErrKind) (s : State) : (State.raise k s).dLastOffset = s.dLastOffset := rfl
@[simp] theorem State.raise_dQ (k : ErrKind) (s : State) : (State.raise k s).dQ = s.dQ := rfl
@[simp] theorem State.raise_dSubset (k : ErrKind) (s : State) : (State.raise k s).dSubset = s.dSubset := rfl
@[simp] theorem State.raise_dSentinel (k : ErrKind) (s : State) : (State.raise k s).dSentinel = s.dSentinel := rfl
@[simp] theorem State.raise_dHdrLen (k : ErrKind) (s : State) : (State.raise k s).dHdrLen = s.dHdrLen := rfl
@[simp] theorem State.raise_dTokens (k : ErrKind) (s : State) : (State.raise k s).dTokens = s.dTokens := rfl
@[simp] theorem State.raise_dMirror (k : ErrKind) (s : State) : (State.raise k s).dMirror = s.dMirror := rfl
@[simp] theorem State.raise_sPos (k : ErrKind) (s : State) : (State.raise k s).sPos = s.sPos := rfl
@[simp] theorem State.raise_codec (k : ErrKind) (s : State) : (State.raise k s).codec = s.codec := rfl
@[simp] theorem State.raise_opt (k : ErrKind) (s : State) : (State.raise k s).opt = s.opt := rfl
@[simp] theorem State.raise_srcLen (k : ErrKind) (s : State) : (State.raise k s).srcLen = s.srcLen := rfl
@[simp] theorem State.raise_skip (k : ErrKind) (s : State) : (State.raise k s).skip = s.skip := rfl
@[simp] theorem State.raise_msMode (k : ErrKind) (s : State) : (State.raise k s).msMode = s.msMode := rfl
@[simp] theorem State.raise_msMaxOff (k : ErrKind) (s : State) : (State.raise k s).msMaxOff = s.msMaxOff := rfl
@[simp] theorem State.raise_msMaxLen (k : ErrKind) (s : State) : (State.raise k s).msMaxLen = s.msMaxLen := rfl
@[simp] theorem State.raise_bbMaxInput (k : ErrKind) (s : State) : (State.raise k s).bbMaxInput = s.bbMaxInput := rfl
@[simp] theorem State.raise_fault (k : ErrKind) (s : State) : (State.raise k s).fault = true := rfl
@[simp] theorem State.raise_err (k : ErrKind) (s : State) : (State.raise k s).err = errCode k := rfl
@[simp] theorem State.raise_src (k : ErrKind) (s : State) : (State.raise k s).src = s.src := rfl
@[simp] theorem State.raise_out (k : ErrKind) (s : State) : (State.raise k s).out = s.out := rfl
@[simp] theorem State.raise_head (k : ErrKind) (s : State) : (State.raise k s).head = s.head := rfl
@[simp] theorem State.raise_prev (k : ErrKind) (s : State) : (State.raise k s).prev = s.prev := rfl
@[simp] theorem State.raise_mlen (k : ErrKind) (s : State) : (State.raise k s).mlen = s.mlen := rfl
@[simp] theorem State.raise_cmds (k : ErrKind) (s : State) : (State.raise k s).cmds = s.cmds := rfl
@[simp] theorem State.raise_resp (k : ErrKind) (s : State) : (State.raise k s).resp = s.resp := rfl
@[simp] theorem State.raise_epoch (k : ErrKind) (s : State) : (State.raise k s).epoch = s.epoch := rfl
@[simp] theorem State.raise_draws (k : ErrKind) (s : State) : (State.raise k s).draws = s.draws := rfl

@[simp] theorem State.answered_cfg (res : List Word) (s : State) : (State.answered res s).cfg = s.cfg := rfl
@[simp] theorem State.answered_outLen (res : List Word) (s : State) : (State.answered res s).outLen = s.outLen := rfl
@[simp] theorem State.answered_wMask (res : List Word) (s : State) : (State.answered res s).wMask = s.wMask := rfl
@[simp] theorem State.answered_wIndex (res : List Word) (s : State) : (State.answered res s).wIndex = s.wIndex := rfl
@[simp] theorem State.answered_wBacktrack (res : List Word) (s : State) : (State.answered res s).wBacktrack = s.wBacktrack := rfl
@[simp] theorem State.answered_rPos (res : List Word) (s : State) : (State.answered res s).rPos = s.rPos := rfl
@[simp] theorem State.answered_rMask (res : List Word) (s : State) : (State.answered res s).rMask = s.rMask := rfl
@[simp] theorem State.answered_rIndex (res : List Word) (s : State) : (State.answered res s).rIndex = s.rIndex := rfl
@[simp] theorem State.answered_rBacktrack (res : List Word) (s : State) : (State.answered res s).rBacktrack = s.rBacktrack := rfl
@[simp] theorem State.answered_rLast (res : List Word) (s : State) : (State.answered res s).rLast = s.rLast := rfl
@[simp] theorem State.answered_dState (res : List Word) (s : State) : (State.answered res s).dState = s.dState := rfl
@[simp] theorem State.answered_dLastOffset (res : List Word) (s : State) : (State.answered res s).dLastOffset = s.dLastOffset := rfl
@[simp] theorem State.answered_dQ (res : List Word) (s : State) : (State.answered res s).dQ = s.dQ := rfl
@[simp] theorem State.answered_dSubset (res : List Word) (s : State) : (State.answered res s).dSubset = s.dSubset := rfl
@[simp] theorem State.answered_dSentinel (res : List Word) (s : State) : (State.answered res s).dSentinel = s.dSentinel := rfl
@[simp] theorem State.answered_dHdrLen (res : List Word) (s : State) : (State.answered res s).dHdrLen = s.dHdrLen := rfl
@[simp] theorem State.answered_dTokens (res : List Word) (s : State) : (State.answered res s).dTokens = s.dTokens := rfl
@[simp] theorem State.answered_dMirror (res : List Word) (s : State) : (State.answered res s).dMirror = s.dMirror := rfl
@[simp] theorem State.answered_sPos (res : List Word) (s : State) : (State.answered res s).sPos = s.sPos := rfl
@[simp] theorem State.answered_codec (res : List Word) (s : State) : (State.answered res s).codec = s.codec := rfl
@[simp] theorem State.answered_opt (res : List Word) (s : State) : (State.answered res s).opt = s.opt := rfl
@[simp] theorem State.answered_srcLen (res : List Word) (s : State) : (State.answered res s).srcLen = s.srcLen := rfl
@[simp] theorem State.answered_skip (res : List Word) (s : State) : (State.answered res s).skip = s.skip := rfl
@[simp] theorem State.answered_msMode (res : List Word) (s : State) : (State.answered res s).msMode = s.msMode := rfl
@[simp] theorem State.answered_msMaxOff (res : List Word) (s : State) : (State.answered res s).msMaxOff = s.msMaxOff := rfl
@[simp] theorem State.answered_msMaxLen (res : List Word) (s : State) : (State.answered res s).msMaxLen = s.msMaxLen := rfl
@[simp] theorem State.answered_bbMaxInput (res : List Word) (s : State) : (State.answered res s).bbMaxInput = s.bbMaxInput := rfl
@[simp] theorem State.answered_fault (res : List Word) (s : State) : (State.answered res s).fault = s.fault := rfl
@[simp] theorem State.answered_err (res : List Word) (s : State) : (State.answered res s).err = s.err := rfl
@[simp] theorem State.answered_src (res : List Word) (s : State) : (State.answered res s).src = s.src := rfl
@[simp] theorem State.answered_out (res : List Word) (s : State) : (State.answered res s).out = s.out := rfl
@[simp] theorem State.answered_head (res : List Word) (s : State) : (State.answered res s).head = s.head := rfl
@[simp] theorem State.answered_prev (res : List Word) (s : State) : (State.answered res s).prev = s.prev := rfl
@[simp] theorem State.answered_mlen (res : List Word) (s : State) : (State.answered res s).mlen = s.mlen := rfl
@[simp] theorem State.answered_cmds (res : List Word) (s : State) : (State.answered res s).cmds = s.cmds := rfl
@[simp] theorem State.answered_resp (res : List Word) (s : State) : (State.answered res s).resp = ⟨s.status, res⟩ := rfl
@[simp] theorem State.answered_epoch (res : List Word) (s : State) : (State.answered res s).epoch = s.epoch := rfl
@[simp] theorem State.answered_draws (res : List Word) (s : State) : (State.answered res s).draws = s.draws := rfl

@[simp] theorem State.voidTables_cfg (s : State) : s.voidTables.cfg = s.cfg := rfl
@[simp] theorem State.voidTables_outLen (s : State) : s.voidTables.outLen = s.outLen := rfl
@[simp] theorem State.voidTables_wMask (s : State) : s.voidTables.wMask = s.wMask := rfl
@[simp] theorem State.voidTables_wIndex (s : State) : s.voidTables.wIndex = s.wIndex := rfl
@[simp] theorem State.voidTables_wBacktrack (s : State) : s.voidTables.wBacktrack = s.wBacktrack := rfl
@[simp] theorem State.voidTables_rPos (s : State) : s.voidTables.rPos = s.rPos := rfl
@[simp] theorem State.voidTables_rMask (s : State) : s.voidTables.rMask = s.rMask := rfl
@[simp] theorem State.voidTables_rIndex (s : State) : s.voidTables.rIndex = s.rIndex := rfl
@[simp] theorem State.voidTables_rBacktrack (s : State) : s.voidTables.rBacktrack = s.rBacktrack := rfl
@[simp] theorem State.voidTables_rLast (s : State) : s.voidTables.rLast = s.rLast := rfl
@[simp] theorem State.voidTables_dState (s : State) : s.voidTables.dState = s.dState := rfl
@[simp] theorem State.voidTables_dLastOffset (s : State) : s.voidTables.dLastOffset = s.dLastOffset := rfl
@[simp] theorem State.voidTables_dQ (s : State) : s.voidTables.dQ = s.dQ := rfl
@[simp] theorem State.voidTables_dSubset (s : State) : s.voidTables.dSubset = s.dSubset := rfl
@[simp] theorem State.voidTables_dSentinel (s : State) : s.voidTables.dSentinel = s.dSentinel := rfl
@[simp] theorem State.voidTables_dHdrLen (s : State) : s.voidTables.dHdrLen = s.dHdrLen := rfl
@[simp] theorem State.voidTables_dTokens (s : State) : s.voidTables.dTokens = s.dTokens := rfl
@[simp] theorem State.voidTables_dMirror (s : State) : s.voidTables.dMirror = s.dMirror := rfl
@[simp] theorem State.voidTables_sPos (s : State) : s.voidTables.sPos = s.sPos := rfl
@[simp] theorem State.voidTables_codec (s : State) : s.voidTables.codec = s.codec := rfl
@[simp] theorem State.voidTables_opt (s : State) : s.voidTables.opt = s.opt := rfl
@[simp] theorem State.voidTables_srcLen (s : State) : s.voidTables.srcLen = s.srcLen := rfl
@[simp] theorem State.voidTables_skip (s : State) : s.voidTables.skip = s.skip := rfl
@[simp] theorem State.voidTables_msMode (s : State) : s.voidTables.msMode = s.msMode := rfl
@[simp] theorem State.voidTables_msMaxOff (s : State) : s.voidTables.msMaxOff = s.msMaxOff := rfl
@[simp] theorem State.voidTables_msMaxLen (s : State) : s.voidTables.msMaxLen = s.msMaxLen := rfl
@[simp] theorem State.voidTables_bbMaxInput (s : State) : s.voidTables.bbMaxInput = s.bbMaxInput := rfl
@[simp] theorem State.voidTables_fault (s : State) : s.voidTables.fault = s.fault := rfl
@[simp] theorem State.voidTables_err (s : State) : s.voidTables.err = s.err := rfl
@[simp] theorem State.voidTables_src (s : State) : s.voidTables.src = s.src := rfl
@[simp] theorem State.voidTables_out (s : State) : s.voidTables.out = s.out := rfl
@[simp] theorem State.voidTables_head (s : State) : s.voidTables.head = Table.void := rfl
@[simp] theorem State.voidTables_prev (s : State) : s.voidTables.prev = Table.void := rfl
@[simp] theorem State.voidTables_mlen (s : State) : s.voidTables.mlen = Table.void := rfl
@[simp] theorem State.voidTables_cmds (s : State) : s.voidTables.cmds = s.cmds := rfl
@[simp] theorem State.voidTables_resp (s : State) : s.voidTables.resp = s.resp := rfl
@[simp] theorem State.voidTables_epoch (s : State) : s.voidTables.epoch = s.epoch + 1 := rfl
@[simp] theorem State.voidTables_draws (s : State) : s.voidTables.draws = s.draws := rfl

@[simp] theorem State.brStart_cfg (s : State) : s.brStart.cfg = s.cfg := rfl
@[simp] theorem State.brStart_outLen (s : State) : s.brStart.outLen = s.outLen := rfl
@[simp] theorem State.brStart_wMask (s : State) : s.brStart.wMask = s.wMask := rfl
@[simp] theorem State.brStart_wIndex (s : State) : s.brStart.wIndex = s.wIndex := rfl
@[simp] theorem State.brStart_wBacktrack (s : State) : s.brStart.wBacktrack = s.wBacktrack := rfl
@[simp] theorem State.brStart_rPos (s : State) : s.brStart.rPos = 0 := rfl
@[simp] theorem State.brStart_rMask (s : State) : s.brStart.rMask = 0 := rfl
@[simp] theorem State.brStart_rIndex (s : State) : s.brStart.rIndex = 0 := rfl
@[simp] theorem State.brStart_rBacktrack (s : State) : s.brStart.rBacktrack = false := rfl
@[simp] theorem State.brStart_rLast (s : State) : s.brStart.rLast = 0 := rfl
@[simp] theorem State.brStart_dState (s : State) : s.brStart.dState = s.dState := rfl
@[simp] theorem State.brStart_dLastOffset (s : State) : s.brStart.dLastOffset = s.dLastOffset := rfl
@[simp] theorem State.brStart_dQ (s : State) : s.brStart.dQ = s.dQ := rfl
@[simp] theorem State.brStart_dSubset (s : State) : s.brStart.dSubset = s.dSubset := rfl
@[simp] theorem State.brStart_dSentinel (s : State) : s.brStart.dSentinel = s.dSentinel := rfl
@[simp] theorem State.brStart_dHdrLen (s : State) : s.brStart.dHdrLen = s.dHdrLen := rfl
@[simp] theorem State.brStart_dTokens (s : State) : s.brStart.dTokens = s.dTokens := rfl
@[simp] theorem State.brStart_dMirror (s : State) : s.brStart.dMirror = false := rfl
@[simp] theorem State.brStart_sPos (s : State) : s.brStart.sPos = s.sPos := rfl
@[simp] theorem State.brStart_codec (s : State) : s.brStart.codec = s.codec := rfl
@[simp] theorem State.brStart_opt (s : State) : s.brStart.opt = s.opt := rfl
@[simp] theorem State.brStart_srcLen (s : State) : s.brStart.srcLen = s.srcLen := rfl
@[simp] theorem State.brStart_skip (s : State) : s.brStart.skip = s.skip := rfl
@[simp] theorem State.brStart_msMode (s : State) : s.brStart.msMode = s.msMode := rfl
@[simp] theorem State.brStart_msMaxOff (s : State) : s.brStart.msMaxOff = s.msMaxOff := rfl
@[simp] theorem State.brStart_msMaxLen (s : State) : s.brStart.msMaxLen = s.msMaxLen := rfl
@[simp] theorem State.brStart_bbMaxInput (s : State) : s.brStart.bbMaxInput = s.bbMaxInput := rfl
@[simp] theorem State.brStart_fault (s : State) : s.brStart.fault = s.fault := rfl
@[simp] theorem State.brStart_err (s : State) : s.brStart.err = s.err := rfl
@[simp] theorem State.brStart_src (s : State) : s.brStart.src = s.src := rfl
@[simp] theorem State.brStart_out (s : State) : s.brStart.out = s.out := rfl
@[simp] theorem State.brStart_head (s : State) : s.brStart.head = s.head := rfl
@[simp] theorem State.brStart_prev (s : State) : s.brStart.prev = s.prev := rfl
@[simp] theorem State.brStart_mlen (s : State) : s.brStart.mlen = s.mlen := rfl
@[simp] theorem State.brStart_cmds (s : State) : s.brStart.cmds = s.cmds := rfl
@[simp] theorem State.brStart_resp (s : State) : s.brStart.resp = s.resp := rfl
@[simp] theorem State.brStart_epoch (s : State) : s.brStart.epoch = s.epoch := rfl
@[simp] theorem State.brStart_draws (s : State) : s.brStart.draws = s.draws := rfl

@[simp] theorem State.bwStart_cfg (s : State) : s.bwStart.cfg = s.cfg := rfl
@[simp] theorem State.bwStart_outLen (s : State) : s.bwStart.outLen = 0 := rfl
@[simp] theorem State.bwStart_wMask (s : State) : s.bwStart.wMask = 0 := rfl
@[simp] theorem State.bwStart_wIndex (s : State) : s.bwStart.wIndex = 0 := rfl
@[simp] theorem State.bwStart_wBacktrack (s : State) : s.bwStart.wBacktrack = false := rfl
@[simp] theorem State.bwStart_rPos (s : State) : s.bwStart.rPos = s.rPos := rfl
@[simp] theorem State.bwStart_rMask (s : State) : s.bwStart.rMask = s.rMask := rfl
@[simp] theorem State.bwStart_rIndex (s : State) : s.bwStart.rIndex = s.rIndex := rfl
@[simp] theorem State.bwStart_rBacktrack (s : State) : s.bwStart.rBacktrack = s.rBacktrack := rfl
@[simp] theorem State.bwStart_rLast (s : State) : s.bwStart.rLast = s.rLast := rfl
@[simp] theorem State.bwStart_dState (s : State) : s.bwStart.dState = s.dState := rfl
@[simp] theorem State.bwStart_dLastOffset (s : State) : s.bwStart.dLastOffset = s.dLastOffset := rfl
@[simp] theorem State.bwStart_dQ (s : State) : s.bwStart.dQ = s.dQ := rfl
@[simp] theorem State.bwStart_dSubset (s : State) : s.bwStart.dSubset = s.dSubset := rfl
@[simp] theorem State.bwStart_dSentinel (s : State) : s.bwStart.dSentinel = s.dSentinel := rfl
@[simp] theorem State.bwStart_dHdrLen (s : State) : s.bwStart.dHdrLen = s.dHdrLen := rfl
@[simp] theorem State.bwStart_dTokens (s : State) : s.bwStart.dTokens = s.dTokens := rfl
@[simp] theorem State.bwStart_dMirror (s : State) : s.bwStart.dMirror = s.dMirror := rfl
@[simp] theorem State.bwStart_sPos (s : State) : s.bwStart.sPos = s.sPos := rfl
@[simp] theorem State.bwStart_codec (s : State) : s.bwStart.codec = s.codec := rfl
@[simp] theorem State.bwStart_opt (s : State) : s.bwStart.opt = s.opt := rfl
@[simp] theorem State.bwStart_srcLen (s : State) : s.bwStart.srcLen = s.srcLen := rfl
@[simp] theorem State.bwStart_skip (s : State) : s.bwStart.skip = s.skip := rfl
@[simp] theorem State.bwStart_msMode (s : State) : s.bwStart.msMode = s.msMode := rfl
@[simp] theorem State.bwStart_msMaxOff (s : State) : s.bwStart.msMaxOff = s.msMaxOff := rfl
@[simp] theorem State.bwStart_msMaxLen (s : State) : s.bwStart.msMaxLen = s.msMaxLen := rfl
@[simp] theorem State.bwStart_bbMaxInput (s : State) : s.bwStart.bbMaxInput = s.bbMaxInput := rfl
@[simp] theorem State.bwStart_fault (s : State) : s.bwStart.fault = s.fault := rfl
@[simp] theorem State.bwStart_err (s : State) : s.bwStart.err = s.err := rfl
@[simp] theorem State.bwStart_src (s : State) : s.bwStart.src = s.src := rfl
@[simp] theorem State.bwStart_out (s : State) : s.bwStart.out = s.out := rfl
@[simp] theorem State.bwStart_head (s : State) : s.bwStart.head = s.head := rfl
@[simp] theorem State.bwStart_prev (s : State) : s.bwStart.prev = s.prev := rfl
@[simp] theorem State.bwStart_mlen (s : State) : s.bwStart.mlen = s.mlen := rfl
@[simp] theorem State.bwStart_cmds (s : State) : s.bwStart.cmds = s.cmds := rfl
@[simp] theorem State.bwStart_resp (s : State) : s.bwStart.resp = s.resp := rfl
@[simp] theorem State.bwStart_epoch (s : State) : s.bwStart.epoch = s.epoch := rfl
@[simp] theorem State.bwStart_draws (s : State) : s.bwStart.draws = s.draws := rfl

@[simp] theorem State.aborted_cfg (s : State) : s.aborted.cfg = s.cfg := rfl
@[simp] theorem State.aborted_outLen (s : State) : s.aborted.outLen = 0 := rfl
@[simp] theorem State.aborted_wMask (s : State) : s.aborted.wMask = 0 := rfl
@[simp] theorem State.aborted_wIndex (s : State) : s.aborted.wIndex = 0 := rfl
@[simp] theorem State.aborted_wBacktrack (s : State) : s.aborted.wBacktrack = false := rfl
@[simp] theorem State.aborted_rPos (s : State) : s.aborted.rPos = 0 := rfl
@[simp] theorem State.aborted_rMask (s : State) : s.aborted.rMask = 0 := rfl
@[simp] theorem State.aborted_rIndex (s : State) : s.aborted.rIndex = 0 := rfl
@[simp] theorem State.aborted_rBacktrack (s : State) : s.aborted.rBacktrack = false := rfl
@[simp] theorem State.aborted_rLast (s : State) : s.aborted.rLast = 0 := rfl
@[simp] theorem State.aborted_dState (s : State) : s.aborted.dState = .idle := rfl
@[simp] theorem State.aborted_dLastOffset (s : State) : s.aborted.dLastOffset = s.dLastOffset := rfl
@[simp] theorem State.aborted_dQ (s : State) : s.aborted.dQ = s.dQ := rfl
@[simp] theorem State.aborted_dSubset (s : State) : s.aborted.dSubset = s.dSubset := rfl
@[simp] theorem State.aborted_dSentinel (s : State) : s.aborted.dSentinel = s.dSentinel := rfl
@[simp] theorem State.aborted_dHdrLen (s : State) : s.aborted.dHdrLen = s.dHdrLen := rfl
@[simp] theorem State.aborted_dTokens (s : State) : s.aborted.dTokens = 0 := rfl
@[simp] theorem State.aborted_dMirror (s : State) : s.aborted.dMirror = false := rfl
@[simp] theorem State.aborted_sPos (s : State) : s.aborted.sPos = 0 := rfl
@[simp] theorem State.aborted_codec (s : State) : s.aborted.codec = s.codec := rfl
@[simp] theorem State.aborted_opt (s : State) : s.aborted.opt = s.opt := rfl
@[simp] theorem State.aborted_srcLen (s : State) : s.aborted.srcLen = s.srcLen := rfl
@[simp] theorem State.aborted_skip (s : State) : s.aborted.skip = s.skip := rfl
@[simp] theorem State.aborted_msMode (s : State) : s.aborted.msMode = s.msMode := rfl
@[simp] theorem State.aborted_msMaxOff (s : State) : s.aborted.msMaxOff = s.msMaxOff := rfl
@[simp] theorem State.aborted_msMaxLen (s : State) : s.aborted.msMaxLen = s.msMaxLen := rfl
@[simp] theorem State.aborted_bbMaxInput (s : State) : s.aborted.bbMaxInput = s.bbMaxInput := rfl
@[simp] theorem State.aborted_fault (s : State) : s.aborted.fault = false := rfl
@[simp] theorem State.aborted_err (s : State) : s.aborted.err = 0 := rfl
@[simp] theorem State.aborted_src (s : State) : s.aborted.src = s.src := rfl
@[simp] theorem State.aborted_out (s : State) : s.aborted.out = s.out := rfl
@[simp] theorem State.aborted_head (s : State) : s.aborted.head = Table.void := rfl
@[simp] theorem State.aborted_prev (s : State) : s.aborted.prev = Table.void := rfl
@[simp] theorem State.aborted_mlen (s : State) : s.aborted.mlen = Table.void := rfl
@[simp] theorem State.aborted_cmds (s : State) : s.aborted.cmds = s.cmds := rfl
@[simp] theorem State.aborted_resp (s : State) : s.aborted.resp = s.resp := rfl
@[simp] theorem State.aborted_epoch (s : State) : s.aborted.epoch = s.epoch + 1 := rfl
@[simp] theorem State.aborted_draws (s : State) : s.aborted.draws = s.draws := rfl

@[simp] theorem State.tdStarted_cfg (s : State) : s.tdStarted.cfg = s.cfg := rfl
@[simp] theorem State.tdStarted_outLen (s : State) : s.tdStarted.outLen = 0 := rfl
@[simp] theorem State.tdStarted_wMask (s : State) : s.tdStarted.wMask = s.wMask := rfl
@[simp] theorem State.tdStarted_wIndex (s : State) : s.tdStarted.wIndex = s.wIndex := rfl
@[simp] theorem State.tdStarted_wBacktrack (s : State) : s.tdStarted.wBacktrack = s.wBacktrack := rfl
@[simp] theorem State.tdStarted_rPos (s : State) : s.tdStarted.rPos = 0 := rfl
@[simp] theorem State.tdStarted_rMask (s : State) : s.tdStarted.rMask = 0 := rfl
@[simp] theorem State.tdStarted_rIndex (s : State) : s.tdStarted.rIndex = 0 := rfl
@[simp] theorem State.tdStarted_rBacktrack (s : State) : s.tdStarted.rBacktrack = false := rfl
@[simp] theorem State.tdStarted_rLast (s : State) : s.tdStarted.rLast = 0 := rfl
@[simp] theorem State.tdStarted_dState (s : State) : s.tdStarted.dState = .header := rfl
@[simp] theorem State.tdStarted_dLastOffset (s : State) : s.tdStarted.dLastOffset = s.cfg.fit s.cfg.zx0InitialOffset := rfl
@[simp] theorem State.tdStarted_dQ (s : State) : s.tdStarted.dQ = 0 := rfl
@[simp] theorem State.tdStarted_dSubset (s : State) : s.tdStarted.dSubset = 0 := rfl
@[simp] theorem State.tdStarted_dSentinel (s : State) : s.tdStarted.dSentinel = 0 := rfl
@[simp] theorem State.tdStarted_dHdrLen (s : State) : s.tdStarted.dHdrLen = 0 := rfl
@[simp] theorem State.tdStarted_dTokens (s : State) : s.tdStarted.dTokens = 0 := rfl
@[simp] theorem State.tdStarted_dMirror (s : State) : s.tdStarted.dMirror = (s.jobCodec = .zx0 && s.optBackwards) := rfl
@[simp] theorem State.tdStarted_sPos (s : State) : s.tdStarted.sPos = s.sPos := rfl
@[simp] theorem State.tdStarted_codec (s : State) : s.tdStarted.codec = s.codec := rfl
@[simp] theorem State.tdStarted_opt (s : State) : s.tdStarted.opt = s.opt := rfl
@[simp] theorem State.tdStarted_srcLen (s : State) : s.tdStarted.srcLen = s.srcLen := rfl
@[simp] theorem State.tdStarted_skip (s : State) : s.tdStarted.skip = s.skip := rfl
@[simp] theorem State.tdStarted_msMode (s : State) : s.tdStarted.msMode = s.msMode := rfl
@[simp] theorem State.tdStarted_msMaxOff (s : State) : s.tdStarted.msMaxOff = s.msMaxOff := rfl
@[simp] theorem State.tdStarted_msMaxLen (s : State) : s.tdStarted.msMaxLen = s.msMaxLen := rfl
@[simp] theorem State.tdStarted_bbMaxInput (s : State) : s.tdStarted.bbMaxInput = s.bbMaxInput := rfl
@[simp] theorem State.tdStarted_fault (s : State) : s.tdStarted.fault = s.fault := rfl
@[simp] theorem State.tdStarted_err (s : State) : s.tdStarted.err = s.err := rfl
@[simp] theorem State.tdStarted_src (s : State) : s.tdStarted.src = s.src := rfl
@[simp] theorem State.tdStarted_out (s : State) : s.tdStarted.out = s.out := rfl
@[simp] theorem State.tdStarted_head (s : State) : s.tdStarted.head = s.head := rfl
@[simp] theorem State.tdStarted_prev (s : State) : s.tdStarted.prev = s.prev := rfl
@[simp] theorem State.tdStarted_mlen (s : State) : s.tdStarted.mlen = s.mlen := rfl
@[simp] theorem State.tdStarted_cmds (s : State) : s.tdStarted.cmds = s.cmds := rfl
@[simp] theorem State.tdStarted_resp (s : State) : s.tdStarted.resp = s.resp := rfl
@[simp] theorem State.tdStarted_epoch (s : State) : s.tdStarted.epoch = s.epoch := rfl
@[simp] theorem State.tdStarted_draws (s : State) : s.tdStarted.draws = s.draws := rfl

theorem State.clearFault_of_not_fault {s : State} (h : s.fault = false) : s.clearFault = { s with err := 0 } := by
  simp [State.clearFault, h]

theorem State.clearFault_of_fault {s : State} (h : s.fault = true) :
    s.clearFault = { s.voidTables with
      dState := .idle, outLen := 0, wMask := 0, wIndex := 0, wBacktrack := false, fault := false, err := 0 } := by
  simp [State.clearFault, h]

@[simp] theorem State.clearFault_fault (s : State) : s.clearFault.fault = false := by
  cases h : s.fault <;> simp [State.clearFault, h]
@[simp] theorem State.clearFault_err (s : State) : s.clearFault.err = 0 := by
  cases h : s.fault <;> simp [State.clearFault, h]
@[simp] theorem State.clearFault_cfg (s : State) : s.clearFault.cfg = s.cfg := by
  cases h : s.fault <;> simp [State.clearFault, h]
@[simp] theorem State.clearFault_rPos (s : State) : s.clearFault.rPos = s.rPos := by
  cases h : s.fault <;> simp [State.clearFault, h]
@[simp] theorem State.clearFault_rMask (s : State) : s.clearFault.rMask = s.rMask := by
  cases h : s.fault <;> simp [State.clearFault, h]
@[simp] theorem State.clearFault_rIndex (s : State) : s.clearFault.rIndex = s.rIndex := by
  cases h : s.fault <;> simp [State.clearFault, h]
@[simp] theorem State.clearFault_rBacktrack (s : State) : s.clearFault.rBacktrack = s.rBacktrack := by
  cases h : s.fault <;> simp [State.clearFault, h]
@[simp] theorem State.clearFault_rLast (s : State) : s.clearFault.rLast = s.rLast := by
  cases h : s.fault <;> simp [State.clearFault, h]
@[simp] theorem State.clearFault_dLastOffset (s : State) : s.clearFault.dLastOffset = s.dLastOffset := by
  cases h : s.fault <;> simp [State.clearFault, h]
@[simp] theorem State.clearFault_dQ (s : State) : s.clearFault.dQ = s.dQ := by
  cases h : s.fault <;> simp [State.clearFault, h]
@[simp] theorem State.clearFault_dSubset (s : State) : s.clearFault.dSubset = s.dSubset := by
  cases h : s.fault <;> simp [State.clearFault, h]
@[simp] theorem State.clearFault_dSentinel (s : State) : s.clearFault.dSentinel = s.dSentinel := by
  cases h : s.fault <;> simp [State.clearFault, h]
@[simp] theorem State.clearFault_dHdrLen (s : State) : s.clearFault.dHdrLen = s.dHdrLen := by
  cases h : s.fault <;> simp [State.clearFault, h]
@[simp] theorem State.clearFault_dTokens (s : State) : s.clearFault.dTokens = s.dTokens := by
  cases h : s.fault <;> simp [State.clearFault, h]
@[simp] theorem State.clearFault_dMirror (s : State) : s.clearFault.dMirror = s.dMirror := by
  cases h : s.fault <;> simp [State.clearFault, h]
@[simp] theorem State.clearFault_sPos (s : State) : s.clearFault.sPos = s.sPos := by
  cases h : s.fault <;> simp [State.clearFault, h]
@[simp] theorem State.clearFault_codec (s : State) : s.clearFault.codec = s.codec := by
  cases h : s.fault <;> simp [State.clearFault, h]
@[simp] theorem State.clearFault_opt (s : State) : s.clearFault.opt = s.opt := by
  cases h : s.fault <;> simp [State.clearFault, h]
@[simp] theorem State.clearFault_srcLen (s : State) : s.clearFault.srcLen = s.srcLen := by
  cases h : s.fault <;> simp [State.clearFault, h]
@[simp] theorem State.clearFault_skip (s : State) : s.clearFault.skip = s.skip := by
  cases h : s.fault <;> simp [State.clearFault, h]
@[simp] theorem State.clearFault_msMode (s : State) : s.clearFault.msMode = s.msMode := by
  cases h : s.fault <;> simp [State.clearFault, h]
@[simp] theorem State.clearFault_msMaxOff (s : State) : s.clearFault.msMaxOff = s.msMaxOff := by
  cases h : s.fault <;> simp [State.clearFault, h]
@[simp] theorem State.clearFault_msMaxLen (s : State) : s.clearFault.msMaxLen = s.msMaxLen := by
  cases h : s.fault <;> simp [State.clearFault, h]
@[simp] theorem State.clearFault_bbMaxInput (s : State) : s.clearFault.bbMaxInput = s.bbMaxInput := by
  cases h : s.fault <;> simp [State.clearFault, h]
@[simp] theorem State.clearFault_src (s : State) : s.clearFault.src = s.src := by
  cases h : s.fault <;> simp [State.clearFault, h]
@[simp] theorem State.clearFault_out (s : State) : s.clearFault.out = s.out := by
  cases h : s.fault <;> simp [State.clearFault, h]
@[simp] theorem State.clearFault_cmds (s : State) : s.clearFault.cmds = s.cmds := by
  cases h : s.fault <;> simp [State.clearFault, h]
@[simp] theorem State.clearFault_resp (s : State) : s.clearFault.resp = s.resp := by
  cases h : s.fault <;> simp [State.clearFault, h]
@[simp] theorem State.clearFault_draws (s : State) : s.clearFault.draws = s.draws := by
  cases h : s.fault <;> simp [State.clearFault, h]

end Sys2Proof.Machine
end

