-- ==== Sys2Proof/Laws/Memory.lean ====
section
/-! SUPPORT. The laws of buffers and tables: what a read gives after a write, and that every operation keeps the canonical form. -/

namespace Sys2Proof.Machine

variable {β : Type}

theorem Cells.read_write_same (m : List (Nat × β)) (a : Nat) (v : β) : Cells.read (Cells.write m a v) a = some v := by
  induction m with
  | nil => simp [Cells.write, Cells.read]
  | cons c r ih =>
    obtain ⟨k, w⟩ := c
    simp only [Cells.write]
    split
    · simp [Cells.read]
    · split
      · simp [Cells.read]
      · simp [Cells.read, *]

theorem Cells.read_write_other (m : List (Nat × β)) {a b : Nat} (v : β) (h : b ≠ a) :
    Cells.read (Cells.write m a v) b = Cells.read m b := by
  induction m with
  | nil => simp [Cells.write, Cells.read, h]
  | cons c r ih =>
    obtain ⟨k, w⟩ := c
    simp only [Cells.write]
    split
    · simp [Cells.read, h]
    · split
      · subst_vars; simp [Cells.read, h]
      · simp [Cells.read, ih]

theorem Cells.read_erase_other (m : List (Nat × β)) {a b : Nat} (h : b ≠ a) :
    Cells.read (Cells.erase m a) b = Cells.read m b := by
  induction m with
  | nil => rfl
  | cons c r ih =>
    obtain ⟨k, w⟩ := c
    simp only [Cells.erase]
    split
    · subst_vars; simp [Cells.read, h]
    · simp [Cells.read, ih]

theorem Cells.above_read {m : List (Nat × β)} {a : Nat} (h : Cells.above a m = true) {b : Nat} (hb : b ≤ a) :
    Cells.read m b = none := by
  induction m with
  | nil => rfl
  | cons c r ih =>
    obtain ⟨k, w⟩ := c
    simp only [Cells.above, Bool.and_eq_true, decide_eq_true_eq] at h
    rw [Cells.read, if_neg (by omega), ih h.2]

theorem Cells.above_mono {m : List (Nat × β)} {a b : Nat} (h : Cells.above a m = true) (hb : b ≤ a) :
    Cells.above b m = true := by
  induction m with
  | nil => rfl
  | cons c r ih =>
    obtain ⟨k, w⟩ := c
    simp only [Cells.above, Bool.and_eq_true, decide_eq_true_eq] at h ⊢
    exact ⟨by omega, ih h.2⟩

theorem Cells.above_write {m : List (Nat × β)} {a b : Nat} (v : β) (h : Cells.above b m = true) (hb : b < a) :
    Cells.above b (Cells.write m a v) = true := by
  induction m with
  | nil => simp [Cells.write, Cells.above, hb]
  | cons c r ih =>
    obtain ⟨k, w⟩ := c
    simp only [Cells.above, Bool.and_eq_true, decide_eq_true_eq] at h
    simp only [Cells.write]
    split
    · simp [Cells.above, hb, h]
    · split
      · simp [Cells.above, hb, h]
      · simp [Cells.above, h.1, ih h.2]

theorem Cells.above_erase {m : List (Nat × β)} {b : Nat} (a : Nat) (h : Cells.above b m = true) :
    Cells.above b (Cells.erase m a) = true := by
  induction m with
  | nil => rfl
  | cons c r ih =>
    obtain ⟨k, w⟩ := c
    simp only [Cells.above, Bool.and_eq_true, decide_eq_true_eq] at h
    simp only [Cells.erase]
    split
    · exact h.2
    · simp [Cells.above, h.1, ih h.2]

theorem Cells.rising_write {m : List (Nat × β)} (a : Nat) (v : β) (h : Cells.rising m = true) :
    Cells.rising (Cells.write m a v) = true := by
  induction m with
  | nil => rfl
  | cons c r ih =>
    obtain ⟨k, w⟩ := c
    simp only [Cells.rising, Bool.and_eq_true] at h
    simp only [Cells.write]
    split
    · next hk =>
      simp only [Cells.rising, Cells.above, Bool.and_eq_true, decide_eq_true_eq]
      exact ⟨⟨hk, Cells.above_mono h.1 (by omega)⟩, h.1, h.2⟩
    · split
      · next hk => subst hk; simp [Cells.rising, h]
      · simp only [Cells.rising, Bool.and_eq_true]
        exact ⟨Cells.above_write v h.1 (by omega), ih h.2⟩

theorem Cells.rising_erase {m : List (Nat × β)} (a : Nat) (h : Cells.rising m = true) :
    Cells.rising (Cells.erase m a) = true := by
  induction m with
  | nil => rfl
  | cons c r ih =>
    obtain ⟨k, w⟩ := c
    simp only [Cells.rising, Bool.and_eq_true] at h
    simp only [Cells.erase]
    split
    · exact h.2
    · simp only [Cells.rising, Bool.and_eq_true]
      exact ⟨Cells.above_erase a h.1, ih h.2⟩

theorem Cells.read_erase_same {m : List (Nat × β)} (a : Nat) (h : Cells.rising m = true) :
    Cells.read (Cells.erase m a) a = none := by
  induction m with
  | nil => rfl
  | cons c r ih =>
    obtain ⟨k, w⟩ := c
    simp only [Cells.rising, Bool.and_eq_true] at h
    simp only [Cells.erase]
    split
    · next hk => subst hk; exact Cells.above_read h.1 (Nat.le_refl _)
    · next hk => rw [Cells.read, if_neg hk, ih h.2]

theorem Cells.mem_write {m : List (Nat × β)} {a : Nat} {v : β} {c : Nat × β} (h : c ∈ Cells.write m a v) :
    c = (a, v) ∨ c ∈ m := by
  induction m with
  | nil => simpa [Cells.write] using h
  | cons d r ih =>
    obtain ⟨k, w⟩ := d
    simp only [Cells.write] at h
    split at h
    · simpa using h
    · split at h
      · simp only [List.mem_cons] at h ⊢; tauto
      · simp only [List.mem_cons] at h ⊢
        rcases h with h | h
        · tauto
        · rcases ih h with h | h <;> tauto

theorem Cells.mem_erase {m : List (Nat × β)} {a : Nat} {c : Nat × β} (h : c ∈ Cells.erase m a) : c ∈ m := by
  induction m with
  | nil => simp [Cells.erase] at h
  | cons d r ih =>
    obtain ⟨k, w⟩ := d
    simp only [Cells.erase] at h
    split at h
    · exact List.mem_cons_of_mem _ h
    · simp only [List.mem_cons] at h ⊢
      rcases h with h | h
      · exact .inl h
      · exact .inr (ih h)

/-! ## Buffers -/

@[simp] theorem Memory.read_write_same (m : Memory) (a : Nat) (v : Byte) :
    Memory.read (Memory.write m a v) a = some v := Cells.read_write_same m a v

theorem Memory.read_write_other (m : Memory) {a b : Nat} (v : Byte) (h : b ≠ a) :
    Memory.read (Memory.write m a v) b = Memory.read m b := Cells.read_write_other m v h

theorem Memory.read_write (m : Memory) (a b : Nat) (v : Byte) :
    Memory.read (Memory.write m a v) b = if b = a then some v else Memory.read m b := by
  split
  · next h => rw [h, Memory.read_write_same]
  · next h => exact Memory.read_write_other m v h

theorem Memory.wf_write {m : Memory} (a : Nat) (v : Byte) (h : Memory.wf m = true) :
    Memory.wf (Memory.write m a v) = true := Cells.rising_write a v h

/-! ## Tables -/

theorem Table.read_write_same {t : Table} (a : Nat) (v : Word) (h : t.wf = true) : (t.write a v).read a = some v := by
  simp only [Table.wf, Bool.and_eq_true] at h
  simp only [Table.write]
  split
  · next hv => simp [Table.read, Cells.read_erase_same a h.1, hv.1, hv.2]
  · simp [Table.read, Cells.read_write_same]

theorem Table.read_write_other (t : Table) {a b : Nat} (v : Word) (h : b ≠ a) : (t.write a v).read b = t.read b := by
  simp only [Table.write]
  split <;> simp [Table.read, Cells.read_erase_other _ h, Cells.read_write_other _ _ h]

theorem Table.wf_write {t : Table} (a : Nat) (v : Word) (h : t.wf = true) : (t.write a v).wf = true := by
  simp only [Table.wf, Bool.and_eq_true, List.all_eq_true] at h
  simp only [Table.write]
  split
  · simp only [Table.wf, Bool.and_eq_true, List.all_eq_true]
    exact ⟨Cells.rising_erase a h.1, fun c hc => h.2 c (Cells.mem_erase hc)⟩
  · next hv =>
    simp only [Table.wf, Bool.and_eq_true, List.all_eq_true]
    refine ⟨Cells.rising_write a v h.1, fun c hc => ?_⟩
    rcases Cells.mem_write hc with rfl | hc
    · by_cases ha : a < t.span
      · simpa [ha] using hv
      · simp [ha]
    · exact h.2 c hc

@[simp] theorem Table.wf_void : Table.void.wf = true := rfl

@[simp] theorem Table.wf_filled (n : Nat) (v : Word) : (Table.filled n v).wf = true := rfl

@[simp] theorem Table.read_filled (n : Nat) (v : Word) (a : Nat) :
    (Table.filled n v).read a = if a < n then some v else none := rfl

/-- The memory and the tables of the state after reset have the canonical form. -/
theorem State.reset_canonical : State.reset.canonical = true := rfl

end Sys2Proof.Machine
end

