-- ==== Sys2Proof/Laws/Width.lean ====
section
/-! SUPPORT. The width of the value registers (`VAL_BITS`, 00_scope.md R7): what `Config.fit` keeps of a word, and when the value a gamma reader has
read is accepted. -/

namespace Sys2Proof

@[simp] theorem Config.fit_toNat (cfg : Config) (v : Word) : (cfg.fit v).toNat = v.toNat % 2 ^ cfg.valueBits := by
  have : v.toNat % 2 ^ cfg.valueBits ≤ v.toNat := Nat.mod_le _ _
  simp only [Config.fit, BitVec.toNat_ofNat]
  exact Nat.mod_eq_of_lt (by omega)

/-- What a register holds is a number of `VAL_BITS` bits. -/
theorem Config.fit_lt (cfg : Config) (v : Word) : (cfg.fit v).toNat < 2 ^ cfg.valueBits := by
  rw [Config.fit_toNat]; exact Nat.mod_lt _ (Nat.two_pow_pos _)

/-- A number of `VAL_BITS` bits is kept. -/
theorem Config.fit_of_lt {cfg : Config} {v : Word} (h : v.toNat < 2 ^ cfg.valueBits) : cfg.fit v = v := by
  apply BitVec.eq_of_toNat_eq
  rw [Config.fit_toNat, Nat.mod_eq_of_lt h]

/-- A register of 32 bits keeps every word. -/
theorem Config.fit_of_wide {cfg : Config} (v : Word) (h : 32 ≤ cfg.valBits) : cfg.fit v = v :=
  Config.fit_of_lt (by rw [Config.valueBits, Nat.min_eq_right h]; exact v.isLt)

@[simp] theorem Config.fit_zero (cfg : Config) : cfg.fit 0 = 0 := Config.fit_of_lt (by simp)

@[simp] theorem Config.fit_fit (cfg : Config) (v : Word) : cfg.fit (cfg.fit v) = cfg.fit v :=
  Config.fit_of_lt (cfg.fit_lt v)

/-- A value that fits `VAL_BITS` is the reader's. -/
theorem fitting_ok {σ φ : Type} {cfg : Config} {v : Word} (s : σ) (h : v.toNat < 2 ^ cfg.valueBits) :
    (fitting cfg v s : Res σ φ Word) = .ok v s := by
  simp [fitting, Nat.not_le.mpr h]

/-- One that does not raises. -/
theorem fitting_raised {σ φ : Type} {cfg : Config} {v : Word} (s : σ) (h : 2 ^ cfg.valueBits ≤ v.toNat) :
    (fitting cfg v s : Res σ φ Word) = .raised .malformedToken s := by
  simp [fitting, h]

end Sys2Proof
end

