-- ==== Sys2Proof/Laws/Ops.lean ====
section
/-! SUPPORT. One lemma for each way a shared operation of Machine/Ops.lean can end, saying all it then has done, so that no proof
unfolds the operation. -/

namespace Sys2Proof.Machine

/-! ## Sequencing and transactions -/

section Seq
variable {σ φ α β : Type}

@[simp] theorem Res.bind_of_ok (a : α) (s : σ) (f : α → σ → Res σ φ β) : (Res.ok a s).bind f = f a s := rfl
@[simp] theorem Res.bind_of_raised (k : ErrKind) (s : σ) (f : α → σ → Res σ φ β) :
    (Res.raised k s : Res σ φ α).bind f = .raised k s := rfl
@[simp] theorem Res.bind_of_stuck (e : φ) (f : α → σ → Res σ φ β) :
    (Res.stuck e : Res σ φ α).bind f = .stuck e := rfl

/-- A sequence that completes: both parts have. -/
theorem Res.bind_ok {r : Res σ φ α} {f : α → σ → Res σ φ β} {b : β} {u : σ} (h : r.bind f = .ok b u) :
    ∃ a t, r = .ok a t ∧ f a t = .ok b u := by
  cases r with
  | ok a t => exact ⟨a, t, rfl, h⟩
  | raised k t => simp at h
  | stuck e => simp at h

/-- A sequence that raises: one of its parts has. -/
theorem Res.bind_raised {r : Res σ φ α} {f : α → σ → Res σ φ β} {k : ErrKind} {u : σ} (h : r.bind f = .raised k u) :
    r = .raised k u ∨ ∃ a t, r = .ok a t ∧ f a t = .raised k u := by
  cases r with
  | ok a t => exact .inr ⟨a, t, rfl, h⟩
  | raised k t => simp at h; exact .inl (by simp [h])
  | stuck e => simp at h

end Seq

@[simp] theorem finish_ok (ws : List Word) (s : State) : finish (.ok ws s) = .next (s.answered ws) := rfl
@[simp] theorem finish_raised (k : ErrKind) (s : State) : finish (.raised k s) = .next ((s.raise k).answered []) := rfl
@[simp] theorem finish_stuck (f : Fault) : finish (.stuck f) = .fault f := rfl

/-- While `FAULT = 1` an operation is refused. -/
theorem operation_faulted {body : State → Res State Fault (List Word)} {s : State} (h : s.fault = true) :
    operation body s = .next (s.answered []) := by
  simp [operation, h]

/-- Otherwise it is its body. -/
theorem operation_runs {body : State → Res State Fault (List Word)} {s : State} (h : s.fault = false) :
    operation body s = finish (body s) := by
  simp [operation, h]

@[simp] theorem quiet_of_ok {body : State → Res State Fault Unit} {s t : State} (h : body s = .ok () t) :
    quiet body s = .ok [] t := by
  simp [quiet, h]

@[simp] theorem quiet_of_raised {body : State → Res State Fault Unit} {s t : State} {k : ErrKind}
    (h : body s = .raised k t) : quiet body s = .raised k t := by
  simp [quiet, h]

/-- A token whose body completes: the count, and the response (R211). -/
theorem tokenStep_ok {body : State → Res State Fault Unit} {s t : State} {d : DState} (hf : s.fault = false)
    (h : body s = thenState (.ok () t) d) : tokenStep body s = .next (t.stepped d) := by
  simp [tokenStep, operation, hf, quiet, counted, h, thenState, setDState, State.stepped]

/-- A token whose body raises is not counted. -/
theorem tokenStep_raised {body : State → Res State Fault Unit} {s t : State} {k : ErrKind} (hf : s.fault = false)
    (h : body s = .raised k t) : tokenStep body s = finish (.raised k t) := by
  simp [tokenStep, operation, hf, quiet, counted, h]

/-! ## Appending to `OUT` -/

/-- `PUT_BYTE` that completes has appended the byte. -/
theorem putByte_ok {v : Byte} {s t : State} (h : putByte v s = .ok () t) :
    s.outLen < s.cfg.outCap ∧ s.appends t 1 (fun _ => v) := by
  simp only [putByte] at h
  split at h
  · simp at h
  · next hc =>
    obtain rfl : _ = t := by simpa using h
    have hlt : s.outLen < s.cfg.outCap := by bv_omega
    refine ⟨hlt, rfl, ?_, fun k hk => ?_, fun a ha => ?_⟩
    · simp only; bv_omega
    · obtain rfl : k = 0 := by omega
      simp
    · exact Memory.read_write_other _ _ (by omega)

/-- `PUT_BYTE` raises only `OutputOverflow`, on a full buffer, and changes nothing. -/
theorem putByte_raised {v : Byte} {s t : State} {k : ErrKind} (h : putByte v s = .raised k t) :
    k = .outputOverflow ∧ t = s ∧ s.cfg.outCap ≤ s.outLen := by
  simp only [putByte] at h
  split at h
  · next hc => simp only [Res.raised.injEq] at h; exact ⟨h.1.symm, h.2.symm, hc⟩
  · simp at h

theorem putByte_not_stuck {v : Byte} {s : State} {f : Fault} : putByte v s ≠ .stuck f := by
  simp only [putByte]; split <;> simp

/-- Nothing appended. -/
theorem State.appends_zero (s : State) (v : Nat → Byte) : s.appends s 0 v :=
  ⟨rfl, rfl, fun k hk => by omega, fun _ _ => rfl⟩

/-- Appends add up. -/
theorem State.appends_append {s t u : State} {m n : Nat} {v w : Nat → Byte} (h₁ : s.appends t m v)
    (h₂ : t.appends u n w) : s.appends u (m + n) (fun k => if k < m then v k else w (k - m)) := by
  obtain ⟨e₁, l₁, in₁, out₁⟩ := h₁
  obtain ⟨e₂, l₂, in₂, out₂⟩ := h₂
  refine ⟨?_, by omega, fun k hk => ?_, fun a ha => ?_⟩
  · rw [e₂]; conv_lhs => rw [e₁]
  · by_cases hm : k < m
    · simp only [hm, if_true]
      rw [out₂ _ (by omega), in₁ k hm]
    · simp only [hm, if_false]
      rw [← in₂ (k - m) (by omega)]
      congr 1; omega
  · rw [out₂ a (by omega), out₁ a (by omega)]

/-- The values appended matter only below the count. -/
theorem State.appends_congr {s t : State} {n : Nat} {v w : Nat → Byte} (h : s.appends t n v)
    (hv : ∀ k, k < n → v k = w k) : s.appends t n w :=
  ⟨h.1, h.2.1, fun k hk => by rw [← hv k hk]; exact h.2.2.1 k hk, h.2.2.2⟩

/-- A byte of `OUT` below the old length is still there. -/
theorem State.appends_outByte {s t : State} {n a : Nat} {v : Nat → Byte} (h : s.appends t n v)
    (ha : a < s.outLen.toNat) : t.outByte a = s.outByte a := by
  obtain ⟨e, l, _, o⟩ := h
  have he : t.epoch = s.epoch := by rw [e]
  simp only [State.outByte, if_pos ha, if_pos (show a < t.outLen.toNat by omega), o a (.inl ha), he]

/-- A run that completes has appended the byte `n` times. -/
theorem putRun_ok {v : Byte} {n : Nat} {s t : State} (h : putRun v n s = .ok () t) : s.appends t n (fun _ => v) := by
  induction n generalizing s with
  | zero => obtain rfl : s = t := by simpa [putRun] using h
            exact State.appends_zero s _
  | succ n ih =>
    obtain ⟨_, u, hu, hr⟩ := Res.bind_ok (by simpa only [putRun] using h)
    have := State.appends_append (putByte_ok hu).2 (ih hr)
    rw [Nat.add_comm n 1]
    exact State.appends_congr this fun k _ => by simp

/-- A run raises only `OutputOverflow`. -/
theorem putRun_raised {v : Byte} {n : Nat} {s t : State} {k : ErrKind} (h : putRun v n s = .raised k t) :
    k = .outputOverflow := by
  induction n generalizing s with
  | zero => simp [putRun] at h
  | succ n ih =>
    rcases Res.bind_raised (by simpa only [putRun] using h) with hu | ⟨_, u, _, hr⟩
    · exact (putByte_raised hu).1
    · exact ih hr

/-- The loop of `COPY` changes `OUT` and its length alone, and keeps every byte that was there. -/
theorem copyLoop_ok {offset n : Nat} {s t : State} (h : copyLoop offset n s = .ok () t) :
    ∃ v : Nat → Byte, s.appends t n v := by
  induction n generalizing s with
  | zero => obtain rfl : s = t := by simpa [copyLoop] using h
            exact ⟨fun _ => 0, State.appends_zero s _⟩
  | succ n ih =>
    obtain ⟨_, u, hu, hr⟩ := Res.bind_ok (by simpa only [copyLoop] using h)
    obtain ⟨w, hw⟩ := ih hr
    rw [Nat.add_comm n 1]
    exact ⟨_, State.appends_append (putByte_ok hu).2 hw⟩

/-- `COPY` raises on an offset outside the output, before anything is written, and otherwise only on a full buffer. -/
theorem copy_raised {offset n : Nat} {s t : State} {k : ErrKind} (h : copy offset n s = .raised k t) :
    (k = .invalidBackReference ∧ t = s ∧ (offset < 1 ∨ s.outLen.toNat < offset)) ∨ k = .outputOverflow := by
  simp only [copy] at h
  split at h
  · next hc => simp only [Res.raised.injEq] at h; exact .inl ⟨h.1.symm, h.2.symm, hc⟩
  · right
    clear * - h
    induction n generalizing s with
    | zero => simp [copyLoop] at h
    | succ n ih =>
      rcases Res.bind_raised (by simpa only [copyLoop] using h) with hu | ⟨_, u, _, hr⟩
      · exact (putByte_raised hu).1
      · exact ih hr

/-! ## The bit writer -/

/-- Setting bits of a byte that is there changes this byte alone. -/
theorem backfill_ok {a : Word} {bits : Byte} {s t : State} (h : backfill a bits s = .ok () t) :
    a < s.cfg.outCap ∧ t = { s with out := t.out } ∧
      Memory.read t.out a.toNat = some (s.outByte a.toNat ||| bits) ∧
      ∀ b, b ≠ a.toNat → Memory.read t.out b = Memory.read s.out b := by
  simp only [backfill] at h
  split at h
  · next hc =>
    obtain rfl : _ = t := by simpa using h
    exact ⟨hc, rfl, by simp, fun b hb => Memory.read_write_other _ _ hb⟩
  · simp at h

/-- `WRITE_BIT` changes the writer's registers and `OUT` alone. -/
theorem writeBit_ok {b : Bool} {s t : State} (h : writeBit b s = .ok () t) :
    t = { s with out := t.out, outLen := t.outLen, wMask := t.wMask, wIndex := t.wIndex, wBacktrack := false } := by
  have key : ∀ {u : State} {a : Word} {bits : Byte} {w : State},
      (if b then backfill a bits u else Res.ok () u) = .ok () w → w = { u with out := w.out } := by
    intro u a bits w hw
    cases b with
    | false => obtain rfl : u = w := by simpa using hw
               rfl
    | true => exact (backfill_ok (by simpa using hw)).2.1
  simp only [writeBit] at h
  split at h
  · obtain ⟨_, w, hw, hr⟩ := Res.bind_ok h
    obtain rfl : _ = t := by simpa using hr
    rw [key hw]
  · next hb =>
    have hb' : s.wBacktrack = false := by simpa using hb
    split at h
    · obtain ⟨_, u, hu, hr⟩ := Res.bind_ok h
      obtain ⟨_, w, hw, hr⟩ := Res.bind_ok (by simpa only [writeOpenBit] using hr)
      obtain rfl : _ = t := by simpa using hr
      have e := (putByte_ok hu).2.1
      rw [key hw, e]
      simp [hb']
    · obtain ⟨_, w, hw, hr⟩ := Res.bind_ok (by simpa only [writeOpenBit] using h)
      obtain rfl : _ = t := by simpa using hr
      rw [key hw]
      simp [hb']

/-! ## The bit reader -/

/-- A byte of the stream: what `SRC` holds at its place (R223). -/
theorem srcRead_ok {a : Word} {s t : State} {v : Byte} (h : srcRead a s = .ok v t) :
    t = s ∧ v = s.srcByte (s.physical a.toNat) := by
  simp only [srcRead] at h
  split at h
  · next hm => split at h
               · simp only [Res.ok.injEq] at h; exact ⟨h.2.symm, by simp [State.physical, hm, h.1]⟩
               · simp at h
  · next hm => split at h
               · simp only [Res.ok.injEq] at h
                 exact ⟨h.2.symm, by simp [State.physical, hm, h.1]⟩
               · simp at h

theorem srcRead_not_raised {a : Word} {s t : State} {k : ErrKind} : srcRead a s ≠ .raised k t := by
  simp only [srcRead]; split <;> split <;> simp

/-- `READ_BYTE` that completes. -/
theorem readByte_ok {s t : State} {v : Byte} (h : readByte s = .ok v t) :
    s.rPos < s.srcLen ∧ v = s.srcByte (s.physical s.rPos.toNat) ∧ t = { s with rPos := s.rPos + 1, rLast := v } := by
  simp only [readByte] at h
  split at h
  · simp at h
  · next hc =>
    obtain ⟨w, u, hu, hr⟩ := Res.bind_ok h
    obtain ⟨rfl, hw⟩ := srcRead_ok hu
    simp only [Res.ok.injEq] at hr
    obtain ⟨rfl, rfl⟩ := hr
    exact ⟨by bv_omega, hw, rfl⟩

/-- `READ_BYTE` raises only `TruncatedStream`, at the end of the stream, and changes nothing. -/
theorem readByte_raised {s t : State} {k : ErrKind} (h : readByte s = .raised k t) :
    k = .truncatedStream ∧ t = s ∧ s.srcLen ≤ s.rPos := by
  simp only [readByte] at h
  split at h
  · next hc => simp only [Res.raised.injEq] at h; exact ⟨h.1.symm, h.2.symm, hc⟩
  · rcases Res.bind_raised h with hu | ⟨_, _, _, hr⟩
    · exact absurd hu srcRead_not_raised
    · simp at hr

/-- `READ_BIT` that completes: the pending bit, the open byte's next bit, or the first bit of a byte fetched. -/
theorem readBit_ok {s t : State} {b : Bool} (h : readBit s = .ok b t) :
    (s.rBacktrack = true ∧ b = s.rLast.getLsbD 0 ∧ t = { s with rBacktrack := false }) ∨
    (s.rBacktrack = false ∧ s.rMask ≠ 0 ∧ b = (s.srcByte (s.physical s.rIndex.toNat) &&& s.rMask != 0) ∧
      t = { s with rMask := s.rMask >>> 1 }) ∨
    (s.rBacktrack = false ∧ s.rMask = 0 ∧ s.rPos < s.srcLen ∧
      b = (s.srcByte (s.physical s.rPos.toNat) &&& 0x80 != 0) ∧
      t = { s with rIndex := s.rPos, rPos := s.rPos + 1, rMask := 0x40 }) := by
  simp only [readBit] at h
  split at h
  · next hb =>
    simp only [Res.ok.injEq] at h
    exact .inl ⟨hb, h.1.symm, h.2.symm⟩
  · next hb =>
    have hb' : s.rBacktrack = false := by simpa using hb
    split at h
    · next hm =>
      split at h
      · simp at h
      · next hc =>
        obtain ⟨v, u, hu, hr⟩ := Res.bind_ok (by simpa only [readOpenBit] using h)
        obtain ⟨rfl, hv⟩ := srcRead_ok hu
        simp only [Res.ok.injEq] at hr
        obtain ⟨rfl, rfl⟩ := hr
        refine .inr (.inr ⟨hb', hm, by bv_omega, ?_, by simp⟩)
        rw [hv]; rfl
    · next hm =>
      obtain ⟨v, u, hu, hr⟩ := Res.bind_ok (by simpa only [readOpenBit] using h)
      obtain ⟨rfl, hv⟩ := srcRead_ok hu
      simp only [Res.ok.injEq] at hr
      obtain ⟨rfl, rfl⟩ := hr
      exact .inr (.inl ⟨hb', hm, by rw [hv], rfl⟩)

/-- `READ_BIT` raises only `TruncatedStream`, with no bit pending or open and no byte left, and changes nothing. -/
theorem readBit_raised {s t : State} {k : ErrKind} (h : readBit s = .raised k t) :
    k = .truncatedStream ∧ t = s ∧ s.rBacktrack = false ∧ s.rMask = 0 ∧ s.srcLen ≤ s.rPos := by
  simp only [readBit] at h
  split at h
  · simp at h
  · next hb =>
    split at h
    · next hm =>
      split at h
      · next hc =>
        simp only [Res.raised.injEq] at h
        exact ⟨h.1.symm, h.2.symm, by simpa using hb, hm, hc⟩
      · rcases Res.bind_raised (by simpa only [readOpenBit] using h) with hu | ⟨_, _, _, hr⟩
        · exact absurd hu srcRead_not_raised
        · simp at hr
    · rcases Res.bind_raised (by simpa only [readOpenBit] using h) with hu | ⟨_, _, _, hr⟩
      · exact absurd hu srcRead_not_raised
      · simp at hr

/-- A literal run reads and writes `n` bytes: the cursor has moved by `n`, and so has the end of `OUT`. -/
theorem literalRun_ok {n : Nat} {s t : State} (h : literalRun n s = .ok () t) :
    t = { s with rPos := t.rPos, rLast := t.rLast, out := t.out, outLen := t.outLen } ∧
      t.rPos.toNat = s.rPos.toNat + n ∧ t.outLen.toNat = s.outLen.toNat + n ∧
      ∀ a, a < s.outLen.toNat → Memory.read t.out a = Memory.read s.out a := by
  induction n generalizing s with
  | zero => obtain rfl : s = t := by simpa [literalRun] using h
            exact ⟨rfl, rfl, rfl, fun _ _ => rfl⟩
  | succ n ih =>
    obtain ⟨_, u, hu, hr⟩ := Res.bind_ok (by simpa only [literalRun] using h)
    obtain ⟨v, w, hw, hp⟩ := Res.bind_ok (by simpa only [putLiteral] using hu)
    obtain ⟨hlt, _, rfl⟩ := readByte_ok hw
    obtain ⟨_, e₁, l₁, _, o₁⟩ := putByte_ok hp
    obtain ⟨e₂, p₂, l₂, o₂⟩ := ih hr
    have hpos : u.rPos.toNat = s.rPos.toNat + 1 := by rw [e₁]; simp only; bv_omega
    simp only at l₁ o₁
    refine ⟨?_, by omega, by omega, fun a ha => ?_⟩
    · rw [e₂]; conv_lhs => rw [e₁]
    · rw [o₂ a (by omega), o₁ a (.inl ha)]

/-! ## The gamma readers -/

/-- `EG_READ` refuses a limit above 32 before it reads anything (41_gamma.md R153). -/
theorem egReadCode_refused {σ φ : Type} (P : Port σ φ) (cfg : Config) {limit : Nat} (s : σ) (h : 32 < limit) :
    egReadCode P cfg limit s = .raised .malformedToken s := by
  simp [egReadCode, h]

/-! ## `MS_LINEAR` -/

/-- With a legal `SRC_LEN` the comparison never leaves `SRC`, and one offset adds the pair it gives. -/
theorem State.linearPairs_succ {s : State} (i n offset : Nat) (h : s.srcLen ≤ s.cfg.srcCap) :
    s.linearPairs i (n + 1) offset =
      match s.linearPairs i n (offset + 1) with
      | .error f => .error f
      | .ok rest =>
        let extent := s.extentForward i offset (min s.msMaxLen.toNat (s.srcLen.toNat - i)) 0
        .ok (if 1 ≤ extent then BitVec.ofNat 32 offset :: BitVec.ofNat 32 extent :: rest else rest) := by
  have h' : s.srcLen.toNat ≤ s.cfg.srcCap.toNat := h
  have hm : min (min s.msMaxLen.toNat (s.srcLen.toNat - i)) (s.cfg.srcCap.toNat - i) =
      min s.msMaxLen.toNat (s.srcLen.toNat - i) := by omega
  have hn : ¬ s.cfg.srcCap.toNat - i < min s.msMaxLen.toNat (s.srcLen.toNat - i) := by omega
  cases hp : s.linearPairs i n (offset + 1) <;> simp [State.linearPairs, hm, hn, hp]

/-! ## The start of a scan job -/

@[simp] theorem Table.read_void (a : Nat) : Table.void.read a = none := by simp [Table.void, Table.read, Cells.read]

/-- `MS_INIT` writes `s_pos` and the tables, and nothing else but the model's count of contents become unspecified (42_scanner.md R182, 10_state.md R41). -/
theorem State.scanStart_eq (s : State) :
    s.scanStart = { s with
      sPos := 0, head := s.scanStart.head, prev := Table.void, mlen := s.scanStart.mlen, epoch := s.epoch + 1 } := rfl

/-- After `MS_INIT` every entry of `HEAD` is `NIL` in `CHAIN` mode, and none holds a value in another. -/
theorem State.scanStart_head_read (s : State) (a : Nat) :
    s.scanStart.head.read a = if s.mode = .chain ∧ a < Params.keys then some s.cfg.nil else none := by
  simp only [State.scanStart]
  split <;> simp [*]

/-- After `MS_INIT` the entries of `MLEN` up to `MS_MAXOFF` are 0 in `RUN` mode, and none holds a value otherwise. -/
theorem State.scanStart_mlen_read (s : State) (a : Nat) :
    s.scanStart.mlen.read a = if s.mode = .run ∧ a < s.msMaxOff.toNat + 1 then some 0 else none := by
  simp only [State.scanStart]
  split <;> simp [*]

end Sys2Proof.Machine
end

