-- ==== Sys2Proof/Laws/Emit.lean ====
section
/-! SUPPORT. What the emit sequences of Machine/Emit.lean put into the stream, next to the elements the decoder reads a token's fields from
(`encodeElems`): the same elements, and behind them what the token's rule fetches while it acts. -/

namespace Sys2Proof.Machine

/-! ## Elements of a list of operations -/

@[simp] theorem elemsOfPuts_bits (bits : List Bool) (r : List Put) :
    elemsOfPuts (bits.map .bit ++ r) = bitElems bits ++ elemsOfPuts r := by
  induction bits with
  | nil => rfl
  | cons b bits ih => simp [elemsOfPuts, bitElems] at ih ⊢; exact ih

@[simp] theorem elemsOfPuts_bits_nil (bits : List Bool) : elemsOfPuts (bits.map .bit) = bitElems bits := by
  simpa [elemsOfPuts] using elemsOfPuts_bits bits []

@[simp] theorem elemsOfPuts_bit (b : Bool) (r : List Put) : elemsOfPuts (.bit b :: r) = .bit b :: elemsOfPuts r := rfl

/-- A payload byte that no shared bit follows. -/
@[simp] theorem elemsOfPuts_byte_bit (v : Byte) (b : Bool) (r : List Put) :
    elemsOfPuts (.byte v :: .bit b :: r) = .byte v :: .bit b :: elemsOfPuts r := rfl

@[simp] theorem elemsOfPuts_byte_nil (v : Byte) : elemsOfPuts [.byte v] = [.byte v] := rfl

@[simp] theorem elemsOfPuts_byte_byte (v w : Byte) (r : List Put) :
    elemsOfPuts (.byte v :: .byte w :: r) = .byte v :: elemsOfPuts (.byte w :: r) := by
  cases r with
  | nil => rfl
  | cons p r => cases p <;> rfl

/-- The shared bit stands in bit 0 of the byte before it (40_bitio.md R124). -/
@[simp] theorem elemsOfPuts_share (v : Byte) (b : Bool) (r : List Put) :
    elemsOfPuts (.byte v :: .share :: .bit b :: r) = .byte (v ||| (if b then 0x01 else 0x00)) :: elemsOfPuts r := rfl

/-- A run of payload bytes. -/
@[simp] theorem elemsOfPuts_bytes (bytes : List Byte) : elemsOfPuts (bytes.map .byte) = bytes.map .byte := by
  induction bytes with
  | nil => rfl
  | cons v bytes ih =>
    cases bytes with
    | nil => rfl
    | cons w bytes => simpa using ih

/-- A byte and a run of payload bytes behind it. -/
@[simp] theorem elemsOfPuts_byte_bytes (v : Byte) (bytes : List Byte) :
    elemsOfPuts (.byte v :: bytes.map .byte) = .byte v :: bytes.map .byte :=
  elemsOfPuts_bytes (v :: bytes)

@[simp] theorem putsOf_writeByte (cfg : Config) (v : Word) : putsOf cfg (.writeByte v) = [.byte (v.setWidth 8)] := rfl
@[simp] theorem putsOf_igWrite (cfg : Config) (v flags : Word) :
    putsOf cfg (.igWrite v flags) = (igCode cfg (flags.getLsbD 0) (flags.getLsbD 1) v).map .bit := rfl
@[simp] theorem putsOf_wSetBacktrack (cfg : Config) : putsOf cfg .wSetBacktrack = [.share] := rfl

@[simp] theorem putsOf_opBit (cfg : Config) (b : Bool) : putsOf cfg (opBit b) = [.bit b] := by
  cases b <;> rfl

@[simp] theorem putsOf_opByte (cfg : Config) (v : Nat) : putsOf cfg (opByte v) = [.byte (BitVec.ofNat 8 v)] := by
  simp only [opByte, putsOf_writeByte]
  congr 2
  bv_omega

@[simp] theorem putsOf_opPayload (cfg : Config) (bytes : List Byte) :
    (opPayload bytes).flatMap (putsOf cfg) = bytes.map .byte := by
  induction bytes with
  | nil => rfl
  | cons v bytes ih =>
    have hv : (v.setWidth 32).setWidth 8 = v := by bv_omega
    rw [opPayload, List.map_cons, List.flatMap_cons, putsOf_writeByte, hv, ← opPayload, ih]
    rfl

@[simp] theorem putsOf_opIg (cfg : Config) (v : Nat) (inverted backwards : Bool) :
    putsOf cfg (opIg v inverted backwards) = (igCode cfg inverted backwards (BitVec.ofNat 32 v)).map .bit := by
  rw [opIg, putsOf_igWrite]
  congr <;> cases inverted <;> cases backwards <;> decide

/-! ## Tokens -/

/-- `MDK.RAW` (44_mdkrle_lzf.md R242): the control byte, then the payload. -/
theorem tokenElems_mdkRaw (c : DecodeCtx) (n : BitVec 7) (bytes : List Byte) (h : bytes.length = n.toNat + 1) :
    tokenElems .mdkRle c (.raw bytes) = some (encodeElems c (.mdkRaw n) ++ bytes.map .byte) := by
  have hb : BitVec.ofNat 8 (bytes.length - 1) = n.setWidth 8 := by
    rw [h]; bv_omega
  simp [tokenElems, emit, emitMdk, writtenElems, encodeElems, hb]

/-- `LZF.LRUN` (44_mdkrle_lzf.md R253). -/
theorem tokenElems_lzfLrun (c : DecodeCtx) (n : BitVec 5) (bytes : List Byte) (h : bytes.length = n.toNat + 1) :
    tokenElems .lzf c (.raw bytes) = some (encodeElems c (.lzfLrun n) ++ bytes.map .byte) := by
  have hb : BitVec.ofNat 8 (bytes.length - 1) = n.setWidth 8 := by
    rw [h]; bv_omega
  simp [tokenElems, emit, emitLzf, writtenElems, encodeElems, hb]

/-- `ZX0.LITS` (48_zx0.md R354): the length, then the payload. -/
theorem tokenElems_zx0Lits (c : DecodeCtx) (bytes : List Byte) :
    tokenElems .zx0 c (.raw bytes) =
      some (encodeElems c (.zx0Lits (BitVec.ofNat 32 bytes.length)) ++ bytes.map .byte) := by
  simp [tokenElems, emit, emitZx0, writtenElems, encodeElems]

/-- `ZX0.REP` (48_zx0.md R355). -/
theorem tokenElems_zx0Rep (c : DecodeCtx) (n : Nat) :
    tokenElems .zx0 c (.rep n) = some (encodeElems c (.zx0Rep (BitVec.ofNat 32 n))) := by
  simp [tokenElems, emit, emitZx0, writtenElems, encodeElems]

/-- `ZX0.END` (48_zx0.md R359). -/
theorem tokenElems_zx0End (c : DecodeCtx) : tokenElems .zx0 c .stop = some (encodeElems c .zx0End) := by
  simp [tokenElems, emit, emitZx0, writtenElems, encodeElems]

/-- `ZX0.MATCH` (48_zx0.md R358): the fields with the first bit of the length code in bit 0 of the offset byte, then the rest of that code. -/
theorem tokenElems_zx0Match (c : DecodeCtx) (offset length : Nat) (b : Bool) (r : List Bool)
    (h : igCode c.cfg false c.bw (BitVec.ofNat 32 (length - 1)) = b :: r) :
    tokenElems .zx0 c (.backRef offset length) =
      some (encodeElems c (.zx0Match (BitVec.ofNat 32 (((offset - 1) >>> 7) + 1))
        (BitVec.ofNat 8 ((127 - ((offset - 1) &&& 127)) <<< 1) ||| (if b then 0x01 else 0x00))) ++ bitElems r) := by
  simp [tokenElems, emit, emitZx0, writtenElems, encodeElems, h]

/-- The 34 ones of `PLT.END` (45_pletter.md R277) are `PLETTER_END_BITS`, and the elements of the plain format's END. -/
theorem tokenElems_pltEnd (c : DecodeCtx) (hs : c.sentinel = 65536) (hi : c.cfg.igCont = true) :
    tokenElems .pletter c .stop = some (encodeElems c .pltEnd) ∧ (encodeElems c .pltEnd).length = Params.pletterEndBits := by
  have hl : floorLog2 c.sentinel.toNat = 16 := by rw [hs]; decide
  constructor
  · simp [tokenElems, emit, emitPlt, writtenElems, encodeElems, hi, hl, Params.pletterEndBits, List.replicate, bitElems, elemsOfPuts]
  · simp [encodeElems, hl, Params.pletterEndBits, bitElems]

end Sys2Proof.Machine
end

