-- ==== Sys2Proof/Laws/PerInstr.lean ====
section
/-! SUPPORT. A statement made of every instruction, one lemma each: an instruction is either a command, which the host can spell and which
has every operand encodable, or a token, which stands in a stream. -/

namespace Sys2Proof.Laws.CommandOrToken

/-- Exactly one of the two encodings exists (30_encoding.md R90, R94): a command's for a command, a place in a stream for a token. -/
def Statement (i : Instr) : Prop :=
  (encodeCommand i).isSome = i.isCommand ∧ (elementOf i).isSome = !i.isCommand ∧ (i.isCommand = true → i.wf = true)

theorem reset : Statement .reset := ⟨rfl, rfl, fun _ => rfl⟩
theorem regRead (reg : Word) : Statement (.regRead reg) := ⟨rfl, rfl, fun _ => rfl⟩
theorem regWrite (reg value : Word) : Statement (.regWrite reg value) := ⟨rfl, rfl, fun _ => rfl⟩
theorem abort : Statement .abort := ⟨rfl, rfl, fun _ => rfl⟩
theorem srcWrite (index value : Word) : Statement (.srcWrite index value) := ⟨rfl, rfl, fun _ => rfl⟩
theorem outRead (index : Word) : Statement (.outRead index) := ⟨rfl, rfl, fun _ => rfl⟩
theorem mlenRead (offset : Word) : Statement (.mlenRead offset) := ⟨rfl, rfl, fun _ => rfl⟩
theorem bwInit : Statement .bwInit := ⟨rfl, rfl, fun _ => rfl⟩
theorem writeBit (v : Word) : Statement (.writeBit v) := ⟨rfl, rfl, fun _ => rfl⟩
theorem writeByte (v : Word) : Statement (.writeByte v) := ⟨rfl, rfl, fun _ => rfl⟩
theorem writeBits (value size : Word) : Statement (.writeBits value size) := ⟨rfl, rfl, fun _ => rfl⟩
theorem wSetBacktrack : Statement .wSetBacktrack := ⟨rfl, rfl, fun _ => rfl⟩
theorem flush : Statement .flush := ⟨rfl, rfl, fun _ => rfl⟩
theorem brInit : Statement .brInit := ⟨rfl, rfl, fun _ => rfl⟩
theorem readBit : Statement .readBit := ⟨rfl, rfl, fun _ => rfl⟩
theorem readByte : Statement .readByte := ⟨rfl, rfl, fun _ => rfl⟩
theorem readBits (size : Word) : Statement (.readBits size) := ⟨rfl, rfl, fun _ => rfl⟩
theorem rSetBacktrack : Statement .rSetBacktrack := ⟨rfl, rfl, fun _ => rfl⟩
theorem egWrite (value : Word) : Statement (.egWrite value) := ⟨rfl, rfl, fun _ => rfl⟩
theorem egRead (limit : Word) : Statement (.egRead limit) := ⟨rfl, rfl, fun _ => rfl⟩
theorem igWrite (value flags : Word) : Statement (.igWrite value flags) := ⟨rfl, rfl, fun _ => rfl⟩
theorem igRead (sentinel flags : Word) : Statement (.igRead sentinel flags) := ⟨rfl, rfl, fun _ => rfl⟩
theorem bbgWrite (value : Word) : Statement (.bbgWrite value) := ⟨rfl, rfl, fun _ => rfl⟩
theorem bbgRead : Statement .bbgRead := ⟨rfl, rfl, fun _ => rfl⟩
theorem gammaBits (value : Word) : Statement (.gammaBits value) := ⟨rfl, rfl, fun _ => rfl⟩
theorem msInit : Statement .msInit := ⟨rfl, rfl, fun _ => rfl⟩
theorem msInsert (i : Word) : Statement (.msInsert i) := ⟨rfl, rfl, fun _ => rfl⟩
theorem msWalk (i : Word) : Statement (.msWalk i) := ⟨rfl, rfl, fun _ => rfl⟩
theorem msLinear (i : Word) : Statement (.msLinear i) := ⟨rfl, rfl, fun _ => rfl⟩
theorem msStepRun : Statement .msStepRun := ⟨rfl, rfl, fun _ => rfl⟩
theorem tdStart : Statement .tdStart := ⟨rfl, rfl, fun _ => rfl⟩
theorem tdStep : Statement .tdStep := ⟨rfl, rfl, fun _ => rfl⟩
theorem tdRun : Statement .tdRun := ⟨rfl, rfl, fun _ => rfl⟩
theorem mdkRaw (c : BitVec 7) : Statement (.mdkRaw c) := ⟨rfl, rfl, nofun⟩
theorem mdkRle (c : BitVec 7) (value : Byte) : Statement (.mdkRle c value) := ⟨rfl, rfl, nofun⟩
theorem mdkEnd : Statement .mdkEnd := ⟨rfl, rfl, nofun⟩
theorem lzfLrun (n : BitVec 5) : Statement (.lzfLrun n) := ⟨rfl, rfl, nofun⟩
theorem lzfShort (control : BitVec 3) (hi : BitVec 5) (lo : Byte) : Statement (.lzfShort control hi lo) := ⟨rfl, rfl, nofun⟩
theorem lzfLong (hi : BitVec 5) (len9 lo : Byte) : Statement (.lzfLong hi len9 lo) := ⟨rfl, rfl, nofun⟩
theorem lzfEnd : Statement .lzfEnd := ⟨rfl, rfl, nofun⟩
theorem pltQ (u : BitVec 3) : Statement (.pltQ u) := ⟨rfl, rfl, nofun⟩
theorem pltFirst (value : Byte) : Statement (.pltFirst value) := ⟨rfl, rfl, nofun⟩
theorem pltLit (value : Byte) : Statement (.pltLit value) := ⟨rfl, rfl, nofun⟩
theorem pltMatch (g : Word) (bo : Byte) (extra : BitVec 6) : Statement (.pltMatch g bo extra) := ⟨rfl, rfl, nofun⟩
theorem pltEnd : Statement .pltEnd := ⟨rfl, rfl, nofun⟩
theorem dan1First (value : Byte) : Statement (.dan1First value) := ⟨rfl, rfl, nofun⟩
theorem dan1Lit (value : Byte) : Statement (.dan1Lit value) := ⟨rfl, rfl, nofun⟩
theorem dan1Match (len : Word) (off : Dan1Offset) : Statement (.dan1Match len off) := ⟨rfl, rfl, nofun⟩
theorem dan1Raw (n27 : Byte) : Statement (.dan1Raw n27) := ⟨rfl, rfl, nofun⟩
theorem dan1End : Statement .dan1End := ⟨rfl, rfl, nofun⟩
theorem dan3Subset (subset : BitVec 3) : Statement (.dan3Subset subset) := ⟨rfl, rfl, nofun⟩
theorem dan3First (value : Byte) : Statement (.dan3First value) := ⟨rfl, rfl, nofun⟩
theorem dan3Lit (value : Byte) : Statement (.dan3Lit value) := ⟨rfl, rfl, nofun⟩
theorem dan3Match (len : Word) (off : Dan3Offset) : Statement (.dan3Match len off) := ⟨rfl, rfl, nofun⟩
theorem dan3Raw (n1 : Byte) : Statement (.dan3Raw n1) := ⟨rfl, rfl, nofun⟩
theorem dan3End : Statement .dan3End := ⟨rfl, rfl, nofun⟩
theorem zx7First (value : Byte) : Statement (.zx7First value) := ⟨rfl, rfl, nofun⟩
theorem zx7Lit (value : Byte) : Statement (.zx7Lit value) := ⟨rfl, rfl, nofun⟩
theorem zx7Match (g : Word) (bo : Byte) (high : BitVec 4) : Statement (.zx7Match g bo high) := ⟨rfl, rfl, nofun⟩
theorem zx7End : Statement .zx7End := ⟨rfl, rfl, nofun⟩
theorem zx0Lits (n : Word) : Statement (.zx0Lits n) := ⟨rfl, rfl, nofun⟩
theorem zx0Rep (len : Word) : Statement (.zx0Rep len) := ⟨rfl, rfl, nofun⟩
theorem zx0Match (msb : Word) (bo : Byte) : Statement (.zx0Match msb bo) := ⟨rfl, rfl, nofun⟩
theorem zx0End : Statement .zx0End := ⟨rfl, rfl, nofun⟩
theorem bbLen (n : Word) : Statement (.bbLen n) := ⟨rfl, rfl, nofun⟩
theorem bbLit (value : Byte) : Statement (.bbLit value) := ⟨rfl, rfl, nofun⟩
theorem bbMatch (d : Byte) (hi : BitVec 4) (g : Word) : Statement (.bbMatch d hi g) := ⟨rfl, rfl, nofun⟩
theorem bbEnd : Statement .bbEnd := ⟨rfl, rfl, nofun⟩

end Sys2Proof.Laws.CommandOrToken
end

