-- ==== Sys2Proof/Tests/Slice0.lean ====
section
/-! SUPPORT. The model's own tests: ill-formed instructions are refused, words written out from spec/30_encoding.md decode to what
they stand for, single transactions answer what 95_test_vectors.md says (its numbers V<n>, P<n> are named), and for every statement with
hypotheses a concrete state and operands that meet them (`witness_<statement>`). -/

namespace Sys2Proof.Tests

set_option Elab.async false

open Sys2Proof Sys2Proof.Machine

/-! ## Small states -/

/-- Bytes. -/
def bytes (l : List Nat) : List Byte := l.map (BitVec.ofNat 8)

/-- A buffer with these bytes from index 0 on. -/
def buffer (l : List Nat) : Memory := loadBytes 0 (bytes l)

/-- The state after reset with a stream loaded. -/
def stream (l : List Nat) : State := { State.reset with src := buffer l, srcLen := BitVec.ofNat 32 l.length }

/-- The same with bytes in `OUT`. -/
def State.holding (l : List Nat) (s : State) : State := { s with out := buffer l, outLen := BitVec.ofNat 32 l.length }

/-- A decode job of a codec before its next token. -/
def job (codec : BitVec 3) (l : List Nat) : State := { stream l with codec := codec, dState := .token, dLastOffset := 1 }

/-- A decode job of a codec before its header. -/
def opened (codec : BitVec 3) (l : List Nat) : State := { job codec l with dState := .header }

/-- A state with a fault taken. -/
def faulted : State := { stream [1] with fault := true, err := 3, dState := .fault }

/-- A buffer of two bytes that is full when it holds two. -/
def narrow (l : List Nat) : State := State.holding l { State.reset with cfg := { Config.standard with outCap := 2 } }

/-- A scan job's configuration over these bytes. -/
def scan (mode : BitVec 2) (l : List Nat) : State :=
  { stream l with msMode := mode, msMaxOff := 100, msMaxLen := 255 }

/-- The next state, if there is one. -/
def next? : Host.Outcome State Fault Refusal → Option State
  | .next t => some t
  | .fault _ => none
  | .refused _ => none

/-- The state after these transactions. -/
def afterAll (is : List Instr) (s : State) : State := ((after is s).getD s)

/-- The result words of a transaction that takes no fault. -/
def result (i : Instr) (s : State) : Option (List Nat) :=
  (next? (exec i s)).bind fun t => if t.fault then none else some (t.resp.res.map BitVec.toNat)

/-- The result words of the second of two transactions that take no fault. -/
def resultAfter (i : Instr) (s : State) (j : Instr) : Option (List Nat) := (next? (exec i s)).bind fun t => result j t

/-- `ERR` after a transaction. -/
def error (i : Instr) (s : State) : Option Nat := (next? (exec i s)).map fun t => t.err.toNat

/-- The bytes of `OUT` after a transaction that takes no fault. -/
def output (i : Instr) (s : State) : Option (List Nat) :=
  (next? (exec i s)).bind fun t =>
    if t.fault then none else some ((List.range t.outLen.toNat).map fun a => (t.outByte a).toNat)

/-- Bits of a stream. -/
def bits (l : List Nat) : List Elem := l.map fun b => .bit (b = 1)

/-- A payload byte of a stream. -/
def byte (v : Nat) : List Elem := [.byte (BitVec.ofNat 8 v)]

/-- `n` zeros. -/
def zeros (n : Nat) : List Elem := List.replicate n (.bit false)

/-- What the decoder reads from elements in a job with `q = 2` and `subset = 1`. -/
def decodes (e : Element) (l : List Elem) : Option (Instr × List Elem) :=
  match decodeElement (elemPort Unit) { tableCtx with q := 2, sentinel := 65536, subset := 1 } e l with
  | .ok i r => some (i, r)
  | .raised _ _ => none
  | .stuck _ => none

/-- What a command decodes to. -/
def command (op a b : Nat) : Option Instr :=
  match decodeCommand ⟨BitVec.ofNat 8 op, BitVec.ofNat 32 a, BitVec.ofNat 32 b⟩ with
  | .ok i => some i
  | .error _ => none

/-- The job context a Pletter stream has after its header, and every other with the default options. -/
def plain : DecodeCtx := { tableCtx with sentinel := 65536 }

/-- Elements as the bytes of a stream (R121, R122), from the byte `index` that is still open with `left` bits. -/
def pack : List Elem → List Nat → Nat → Nat → List Nat
  | [], out, _, _ => out
  | .byte v :: r, out, index, left => pack r (out ++ [v.toNat]) index left
  | .bit b :: r, out, index, left =>
    if left = 0 then pack r (out ++ [if b then 128 else 0]) out.length 7
    else pack r (out.modify index (· + if b then 2 ^ (left - 1) else 0)) index (left - 1)

/-- The bytes of a token sequence. -/
def written (codec : Codec) (c : DecodeCtx) (ts : List Token) : Option (List Nat) :=
  (streamElems codec c ts).map fun es => pack es [] 0 0

/-- The bytes of one token in a fresh bit byte. -/
def writtenAlone (codec : Codec) (t : Token) : Option (List Nat) :=
  if t.inRange codec plain then (tokenElems codec plain t).map fun es => pack es [] 0 0 else none

/-! ## Ill-formed instructions are refused -/

theorem test_wf_mdk_rle : (Instr.mdkRle 0x7F 0).wf = false := by decide
theorem test_wf_lzf_short : (Instr.lzfShort 0 0 0).wf = false ∧ (Instr.lzfShort 7 0 0).wf = false := by decide
theorem test_wf_lzf_long : (Instr.lzfLong 0x1F 0 0).wf = false := by decide
theorem test_wf_plt_q : (Instr.pltQ 7).wf = false := by decide
theorem test_wf_plt_match : (Instr.pltMatch 0 0 0).wf = false ∧ (Instr.pltMatch 1 5 1).wf = false := by decide
theorem test_wf_dan1_match : (Instr.dan1Match 0 (.tier1 0)).wf = false ∧ (Instr.dan1Match 65536 (.tier1 0)).wf = false ∧
    (Instr.dan1Match 1 (.tier3 0)).wf = false ∧ (Instr.dan1Match 2 (.tier4 0 0)).wf = false := by decide
theorem test_wf_dan3_match : (Instr.dan3Match 0 (.tierA 0)).wf = false ∧ (Instr.dan3Match 2 .one).wf = false ∧
    (Instr.dan3Match 2 (.two 0)).wf = false ∧ (Instr.dan3Match 1 (.tierA 0)).wf = false ∧
    (Instr.dan3Match 1 (.tierB 0)).wf = false ∧ (Instr.dan3Match 1 (.tierC 0 0)).wf = false := by decide
theorem test_wf_zx7_match : (Instr.zx7Match 0 0 0).wf = false ∧ (Instr.zx7Match 65536 0 0).wf = false ∧
    (Instr.zx7Match 1 5 1).wf = false := by decide
theorem test_wf_zx0 : (Instr.zx0Lits 0).wf = false ∧ (Instr.zx0Rep 0).wf = false ∧ (Instr.zx0Match 0 0).wf = false ∧
    (Instr.zx0Match 256 0).wf = false := by decide
theorem test_wf_bb_match : (Instr.bbMatch 5 1 0).wf = false ∧ (Instr.bbMatch 5 0 65535).wf = false := by decide
theorem test_wf_job : encodableIn { tableCtx with q := 2, sentinel := 65536 } (.pltMatch 1 0x80 2) = false ∧
    encodableIn { tableCtx with q := 2, sentinel := 65536 } (.pltMatch 65536 0 0) = false ∧
    encodableIn { tableCtx with subset := 1 } (.dan3Match 2 (.tierC 4 0)) = false ∧
    encodableIn tableCtx (.dan3Match 65536 (.tierA 0)) = false := by decide

/-! ## Decoding, from words and elements written out by 30_encoding.md -/

theorem test_decode_host : command 0x00 0 0 = some .reset ∧ command 0x01 9 0 = some (.regRead 9) ∧
    command 0x02 0 5 = some (.regWrite 0 5) ∧ command 0x03 0 0 = some .abort ∧
    command 0x04 1 0x41 = some (.srcWrite 1 0x41) ∧ command 0x05 3 0 = some (.outRead 3) ∧
    command 0x06 2 0 = some (.mlenRead 2) := by decide
theorem test_decode_bw : command 0x10 0 0 = some .bwInit ∧ command 0x11 1 0 = some (.writeBit 1) ∧
    command 0x12 0x41 0 = some (.writeByte 0x41) ∧ command 0x13 0xFE 3 = some (.writeBits 0xFE 3) ∧
    command 0x14 0 0 = some .wSetBacktrack ∧ command 0x15 0 0 = some .flush := by decide
theorem test_decode_br : command 0x20 0 0 = some .brInit ∧ command 0x21 0 0 = some .readBit ∧
    command 0x22 0 0 = some .readByte ∧ command 0x23 12 0 = some (.readBits 12) ∧
    command 0x24 0 0 = some .rSetBacktrack := by decide
theorem test_decode_gamma : command 0x30 5 0 = some (.egWrite 5) ∧ command 0x31 16 0 = some (.egRead 16) ∧
    command 0x32 5 1 = some (.igWrite 5 1) ∧ command 0x33 65536 2 = some (.igRead 65536 2) ∧
    command 0x34 4 0 = some (.bbgWrite 4) ∧ command 0x35 0 0 = some .bbgRead ∧
    command 0x36 255 0 = some (.gammaBits 255) := by decide
theorem test_decode_scanner : command 0x40 0 0 = some .msInit ∧ command 0x41 4 0 = some (.msInsert 4) ∧
    command 0x42 8 0 = some (.msWalk 8) ∧ command 0x43 2 0 = some (.msLinear 2) ∧
    command 0x44 0 0 = some .msStepRun := by decide
theorem test_decode_td : command 0x50 0 0 = some .tdStart ∧ command 0x51 0 0 = some .tdStep ∧
    command 0x52 0 0 = some .tdRun ∧ command 0x53 0 0 = none ∧ command 0x07 0 0 = none := by decide
/-- The table's numbering: `OP` in the low byte, `A` above it, `B` above that. -/
theorem test_decode_word : decodeTableWord 72 0x000000050000000002 = some (.regWrite 0 5) ∧
    decodeTableWord 8 0x51 = some .tdStep ∧ decodeTableWord 8 0xFF = some .mdkEnd := by decide +kernel
theorem test_decode_mdk : decodes .mdkToken (byte 0x02) = some (.mdkRaw 2, []) ∧
    decodes .mdkToken (byte 0xFE ++ byte 0x55) = some (.mdkRle 126 0x55, []) ∧
    decodes .mdkToken (byte 0xFF) = some (.mdkEnd, []) := by decide +kernel
theorem test_decode_lzf : decodes .lzfToken (byte 0x1F) = some (.lzfLrun 31, []) ∧
    decodes .lzfToken (byte 0x85 ++ byte 0x01) = some (.lzfShort 4 5 1, []) ∧
    decodes .lzfToken (byte 0xE2 ++ byte 0x0B ++ byte 0x01) = some (.lzfLong 2 0x0B 1, []) ∧
    decodes .lzfToken (byte 0xFF) = some (.lzfEnd, []) := by decide +kernel
theorem test_decode_plt_header : decodes .pltQ (bits [0, 1, 0]) = some (.pltQ 2, []) ∧
    decodes .pltFirst (byte 0x41) = some (.pltFirst 0x41, []) := by decide +kernel
/-- `IG(5)` is 1 0 1 1 0; with `q = 2` one extra bit follows an offset byte of 80 or more. -/
theorem test_decode_plt : decodes .pltToken (bits [0] ++ byte 0x42) = some (.pltLit 0x42, []) ∧
    decodes .pltToken (bits [1, 1, 0, 1, 1, 0] ++ byte 0x01) = some (.pltMatch 5 0x01 0, []) ∧
    decodes .pltToken (bits [1, 0] ++ byte 0x80 ++ bits [1]) = some (.pltMatch 1 0x80 1, []) ∧
    decodes .pltToken (List.replicate 34 (.bit true)) = some (.pltEnd, bits [1]) := by decide +kernel
/-- V47: (2, 1), (18, 1), (19, 2), (4370, 3). -/
theorem test_decode_dan1_match : decodes .dan1Token (bits [0, 1, 0, 1]) = some (.dan1Match 1 (.tier1 1), []) ∧
    decodes .dan1Token (bits [0, 1, 1, 1, 1, 1, 1]) = some (.dan1Match 1 (.tier2 15), []) ∧
    decodes .dan1Token (bits [0, 0, 1, 0, 1] ++ byte 0) = some (.dan1Match 2 (.tier3 0), []) ∧
    decodes .dan1Token (bits [0, 0, 1, 1, 1, 1, 1, 1, 1] ++ byte 0xFF) = some (.dan1Match 3 (.tier4 15 0xFF), []) := by
  decide +kernel
theorem test_decode_dan1 : decodes .dan1First (byte 0x41) = some (.dan1First 0x41, []) ∧
    decodes .dan1Token (bits [1] ++ byte 0x42) = some (.dan1Lit 0x42, []) ∧
    decodes .dan1Token (bits [0] ++ zeros 16 ++ bits [1] ++ byte 0xFF) = some (.dan1Raw 0xFF, []) ∧
    decodes .dan1Token (bits [0] ++ zeros 16 ++ bits [0]) = some (.dan1End, []) := by decide +kernel
/-- V56, with `subset = 1`: two bits of the wide field in the bit stream. -/
theorem test_decode_dan3_match : decodes .dan3Token (bits [0, 1, 0]) = some (.dan3Match 1 .one, []) ∧
    decodes .dan3Token (bits [0, 1, 1, 1]) = some (.dan3Match 1 (.two 1), []) ∧
    decodes .dan3Token (bits [0, 0, 1, 0, 1, 0, 1, 1, 1, 1, 1]) = some (.dan3Match 2 (.tierA 31), []) ∧
    decodes .dan3Token (bits [0, 0, 1, 0, 0] ++ byte 0xFF) = some (.dan3Match 2 (.tierB 0xFF), []) ∧
    decodes .dan3Token (bits [0, 0, 1, 0, 1, 1, 1, 0] ++ byte 0xC7) = some (.dan3Match 2 (.tierC 2 0xC7), []) := by
  decide +kernel
theorem test_decode_dan3 : decodes .dan3Subset (bits [1, 1, 0]) = some (.dan3Subset 2, []) ∧
    decodes .dan3First (byte 0x41) = some (.dan3First 0x41, []) ∧
    decodes .dan3Token (bits [1] ++ byte 0x42) = some (.dan3Lit 0x42, []) ∧
    decodes .dan3Token (bits [0] ++ zeros 16 ++ bits [1] ++ byte 2) = some (.dan3Raw 2, []) ∧
    decodes .dan3Token (bits [0] ++ zeros 16 ++ bits [0]) = some (.dan3End, []) := by decide +kernel
/-- V61: (128, 2), (300, 2). -/
theorem test_decode_zx7 : decodes .zx7First (byte 0x41) = some (.zx7First 0x41, []) ∧
    decodes .zx7Token (bits [0] ++ byte 0x42) = some (.zx7Lit 0x42, []) ∧
    decodes .zx7Token (bits [1, 1] ++ byte 0x7F) = some (.zx7Match 1 0x7F 0, []) ∧
    decodes .zx7Token (bits [1, 1] ++ byte 0xAB ++ bits [0, 0, 0, 1]) = some (.zx7Match 1 0xAB 1, []) ∧
    decodes .zx7Token (bits [1] ++ zeros 16 ++ bits [1]) = some (.zx7End, []) := by decide +kernel
/-- The inverted code of 2 is 1 1 0 (the new-offset table of 2.10: offset 129), of 256 eight pairs 1 1 and 0 (P3). -/
theorem test_decode_zx0 : decodes .zx0Lits (bits [1, 0, 0]) = some (.zx0Lits 2, []) ∧
    decodes .zx0Rep (bits [1, 1, 0]) = some (.zx0Rep 3, []) ∧
    decodes .zx0New (bits [1, 1, 0] ++ byte 0xFE) = some (.zx0Match 2 0xFE, []) ∧
    decodes .zx0New (List.replicate 16 (.bit true) ++ bits [0]) = some (.zx0End, []) := by decide +kernel
/-- V72 and the table below V79: (2048, 2), (300, 5). -/
theorem test_decode_bb : decodes .bbLen (byte 8 ++ byte 1 ++ byte 0 ++ byte 0) = some (.bbLen 0x108, []) ∧
    decodes .bbToken (bits [0] ++ byte 0x41) = some (.bbLit 0x41, []) ∧
    decodes .bbToken (bits [1] ++ byte 0xFF ++ bits [1, 1, 1, 1, 0]) = some (.bbMatch 0xFF 15 0, []) ∧
    decodes .bbToken (bits [1] ++ byte 0xAB ++ bits [0, 0, 1, 0, 1, 1, 0, 0, 0]) = some (.bbMatch 0xAB 2 3, []) ∧
    decodes .bbToken (bits [1] ++ byte 0 ++ List.replicate 16 (.bit true) ++ bits [0]) = some (.bbEnd, bits [0]) := by
  decide +kernel

/-! ## Emitting (R224), against the streams files 44 to 49 write out -/

/-- R246, and the bounds of R242 and R243. -/
theorem test_emit_mdk : written .mdkRle plain [.rle 127 0x55, .rle 127 0x55, .rle 46 0x55, .stop] =
    some [0xFE, 0x55, 0xFE, 0x55, 0xAD, 0x55, 0xFF] ∧ written .mdkRle plain [.raw [0x41], .stop] = some [0, 0x41, 0xFF] ∧
    Token.inRange .mdkRle plain (.rle 128 0) = false ∧ Token.inRange .mdkRle plain (.raw []) = false := by decide +kernel
/-- R256, and the largest lengths and offset of R250 and R251. -/
theorem test_emit_lzf : written .lzf plain [.raw [0x41, 0x42], .backRef 2 6, .stop] = some [1, 0x41, 0x42, 0x80, 1, 0xFF] ∧
    writtenAlone .lzf (.backRef 2 20) = some [0xE0, 0x0B, 1] ∧ writtenAlone .lzf (.backRef 7936 8) = some [0xDE, 0xFF] ∧
    writtenAlone .lzf (.backRef 7936 264) = some [0xFE, 0xFF, 0xFF] ∧ writtenAlone .lzf (.backRef 7937 3) = none ∧
    writtenAlone .lzf (.backRef 1 2) = none ∧ writtenAlone .lzf (.backRef 1 265) = none := by decide +kernel
/-- R281, and R276's example with `q = 3`. -/
theorem test_emit_plt : written .pletter plain [.q 1, .first 0x41, .lit 0x42, .backRef 2 6, .stop] =
      some [0x0D, 0x41, 0x42, 0xBF, 1, 0xFF, 0xFF, 0xFF, 0xF0] ∧
    tokenElems .pletter { plain with q := 3 } (.backRef 300 2) = some (bits [1, 0] ++ byte 0xAB ++ bits [1, 0]) := by decide +kernel
/-- R301, and V47's farthest offset. -/
theorem test_emit_dan1 : written .dan1 plain [.first 0x41, .backRef 1 7, .lit 0x42, .lit 0x43, .stop] =
      some [0x41, 0x1C, 0x30, 0x42, 0x43, 0, 0] ∧
    tokenElems .dan1 plain (.backRef 4370 3) = some (bits [0, 0, 1, 1, 1, 1, 1, 1, 1] ++ byte 0xFF) ∧
    tokenElems .dan1 plain (.backRef 19 2) = some (bits [0, 0, 1, 0, 1] ++ byte 0) ∧
    writtenAlone .dan1 (.backRef 19 1) = none := by decide +kernel
/-- R321, and V52's RAW block. -/
theorem test_emit_dan3 : written .dan3 plain [.subset 2, .first 0x41, .lit 0x42, .backRef 2 6, .backRef 1 1, .backRef 3 1, .stop] =
      some [0xD1, 0x41, 0x42, 0xA0, 0xA7, 0, 0, 0] ∧
    written .dan3 plain [.subset 1, .first 0x41, .raw [0x58, 0x59, 0x5A], .stop] =
      some [0x80, 0x41, 0, 0x10, 2, 0x58, 0x59, 0x5A, 0, 0] := by decide +kernel
/-- R110, and the matches of R335. -/
theorem test_emit_zx7 : written .zx7 plain [.first 0x41, .lit 0x42, .backRef 2 6, .stop] = some [0x41, 0x4B, 0x42, 1, 0, 0, 0x80] ∧
    writtenAlone .zx7 (.backRef 129 2) = some [0xC0, 0x80] ∧ writtenAlone .zx7 (.backRef 300 2) = some [0xC4, 0xAB] ∧
    writtenAlone .zx7 (.backRef 2176 2) = some [0xFC, 0xFF] := by decide +kernel
/-- R362: the stream with every transition, the forward stream of `BACKWARDS = 1`, and the matches of R358. -/
theorem test_emit_zx0 :
    written .zx0 plain [.raw [0x41], .rep 3, .lit 0x42, .backRef 4 2, .raw [0x43], .rep 2, .stop] =
      some [0x31, 0x41, 0x42, 9, 0xF8, 0x43, 0xFF, 0xFF, 0] ∧
    written .zx0 { plain with bw := true } [.raw [0x41, 0x42], .backRef 2 6, .stop] =
      some [0x39, 0x41, 0x42, 0xFC, 0xD5, 0x55, 0x60] ∧
    writtenAlone .zx0 (.backRef 300 2) = some [0x80, 0xA8] ∧ writtenAlone .zx0 (.backRef 32640 2) = some [0xAA, 0xA8, 0] := by
  decide +kernel
/-- R359: what ZX0 cannot spell. -/
theorem test_emit_zx0_illegal : written .zx0 plain [.raw [1], .raw [2]] = none ∧ written .zx0 plain [.raw [1], .rep 1, .rep 1] = none ∧
    written .zx0 plain [.stop] = none ∧ written .zx0 plain [] = some [] := by decide +kernel
/-- R391, and the matches of R384. -/
theorem test_emit_bb : written .bitBuster plain [.len 8, .lit 0x41, .lit 0x42, .backRef 2 6, .stop] =
      some [8, 0, 0, 0, 0x39, 0x41, 0x42, 1, 0xFF, 0, 0xFF, 0x80] ∧
    writtenAlone .bitBuster (.backRef 300 5) = some [0x96, 0xAB, 0] ∧ writtenAlone .bitBuster (.backRef 2048 2) = some [0xF8, 0xFF] ∧
    writtenAlone .bitBuster (.backRef 1 65535) = some [0xFF, 0, 0xFF, 0x7F, 0xFE] := by decide +kernel

/-! ## The constants of R6 -/

/-- The bounds of DAN1's tiers are the sums of `2 ^ DAN1_W`, LZF's lengths meet at `LZF_SHORT_MAXLEN`, and the table's own offsets. -/
theorem test_constants : (∀ t < 5, 1 ≤ t → Params.dan1Bound t = Params.dan1Bound (t - 1) + 2 ^ Params.dan1Width t) ∧
    lzfShortLength 1 = Params.lzfMinMatch ∧ lzfShortLength 6 = Params.lzfShortMaxLen ∧ lzfLongLength 0 = Params.lzfShortMaxLen + 1 ∧
    lzfLongLength 0xFF = Params.lzfLongMaxLen ∧ Params.pletterMaxOff 7 = 8192 ∧ Params.dan3MaxOff 7 = 65824 := by decide +kernel

/-! ## Single transactions -/

/-- V80. -/
theorem test_reset : result .reset faulted = some [] ∧ result (.regRead 7) State.reset = some [524288] := by decide +kernel
/-- V81. -/
theorem test_reg_read : result (.regRead 12) faulted = none ∧ result (.regRead 12) (stream [1]) = some [0] ∧
    result (.regRead 2) (stream [1, 2]) = some [2] := by decide +kernel
theorem test_reg_write :
    (next? (exec (.regWrite 8 0xFFF) State.reset)).map State.status = some 0 ∧
    (next? (exec (.regWrite 1 0xFFF) State.reset)).map State.opt = some 0x7F := by decide +kernel
/-- V83. -/
theorem test_abort : (next? (exec .abort faulted)).map State.status = some 0 := by decide +kernel
theorem test_src_write : (next? (exec (.srcWrite 1 0x141) (stream [1, 2, 3]))).map State.src = some (buffer [1, 0x41, 3]) ∧
    exec (.srcWrite 1048576 0) State.reset = .fault .srcBeyondCapacity := by
  constructor
  · decide +kernel
  · rfl
theorem test_out_read : result (.outRead 1) (State.holding [5, 6] State.reset) = some [6] := by decide +kernel
/-- V30b: `MLEN` after four steps over ABAB. -/
theorem test_mlen_read : result (.mlenRead 2)
    (afterAll [.msInit, .msStepRun, .msStepRun, .msStepRun, .msStepRun] (scan 2 [1, 2, 1, 2])) = some [2] := by
  decide +kernel
/-- R41: an entry of an earlier job is not the current job's: `RUN`, then `MS_INIT` in `CHAIN` mode, then `MS_MODE` back to 2. -/
theorem test_mlen_read_of_an_earlier_job :
    (next? (exec (.mlenRead 1) (afterAll [.msInit, .regWrite 4 0, .msInit, .regWrite 4 2] (scan 2 [1, 2])))).map State.draws = some 1 := by
  decide +kernel
theorem test_bw_init : output .bwInit (State.holding [5, 6] faulted) = some [] := by decide +kernel
/-- V1, V9. -/
theorem test_write_bit : output (.writeBit 1) State.reset = some [0x80] ∧
    output (.writeBit 1) { State.holding [0xFE] State.reset with wBacktrack := true } = some [0xFF] := by decide +kernel
/-- V2: the bit byte stays in front of the payload byte. -/
theorem test_write_byte : output (.writeByte 0x141) (afterAll [.writeBit 1, .writeBit 1] State.reset) = some [0xC0, 0x41] := by
  decide +kernel
/-- V4, V7. -/
theorem test_write_bits : output (.writeBits 0xFE 3) State.reset = some [0xC0] ∧
    error (.writeBits 0 33) State.reset = some 7 := by decide +kernel
/-- V10. -/
theorem test_w_set_backtrack : error .wSetBacktrack State.reset = some 7 := by decide +kernel
theorem test_flush : output .flush (afterAll [.writeBit 1] State.reset) = some [0x80] := by decide +kernel
/-- V85. -/
theorem test_br_init : (next? (exec .brInit faulted)).map State.status = some 0 := by decide +kernel
/-- V11. -/
theorem test_read_bit : result .readBit (afterAll [.readBit] (stream [0x4B])) = some [1] ∧
    error .readBit (stream []) = some 2 := by decide +kernel
/-- V12. -/
theorem test_read_byte : result .readByte (afterAll [.readBit] (stream [0x80, 0x41])) = some [0x41] := by decide +kernel
/-- V14, V18. -/
theorem test_read_bits : result (.readBits 12) (stream [0xA5, 0x5A, 0xC3]) = some [0xA55] ∧
    error (.readBits 33) (stream [0xA5]) = some 7 := by decide +kernel
/-- V16. -/
theorem test_r_set_backtrack : result .readBit (afterAll [.readByte, .rSetBacktrack] (stream [0xFF])) = some [1] := by
  decide +kernel
/-- V19. -/
theorem test_eg_write : output (.egWrite 5) State.reset = some [0x28] ∧ output (.egWrite 256) State.reset = some [0, 0x80, 0] := by
  decide +kernel
/-- V23a, V23b. -/
theorem test_eg_read : result (.egRead 16) (stream [0x28]) = some [5, 0] ∧
    result (.egRead 16) (stream [0, 0, 0x80]) = some [0, 1] := by decide +kernel
/-- R153 in the decoder: `DAN3_ZERO_LIMIT` of 33 raises after the tag, and 0 waits for 32 zeros (notes/assumptions/25.md). -/
theorem test_dan3_zero_limit :
    decodeElement (elemPort Unit) { tableCtx with cfg := { Config.standard with dan3ZeroLimit := 33 } } .dan3Token (bits [0, 1]) =
      .raised .malformedToken (bits [1]) ∧
    decodeElement (elemPort Unit) { tableCtx with cfg := { Config.standard with dan3ZeroLimit := 0 } } .dan3Token
      (bits [0] ++ zeros 32 ++ bits [0]) = .ok .dan3End [] := by decide +kernel
/-- V20: plain, inverted, backwards. -/
theorem test_ig_write : output (.igWrite 5 0) State.reset = some [0xB0] ∧ output (.igWrite 5 1) State.reset = some [0xE0] ∧
    output (.igWrite 5 2) State.reset = some [0x18] := by decide +kernel
/-- V23c, V23d, V23h. -/
theorem test_ig_read : result (.igRead 0 0) (stream [0xB0]) = some [5, 0] ∧
    result (.igRead 65536 0) (stream [255, 255, 255, 255]) = some [0, 1] ∧
    error (.igRead 0 0) (stream (List.replicate 9 0xAA)) = some 7 := by decide +kernel
/-- V21, V22. -/
theorem test_bbg_write : output (.bbgWrite 4) State.reset = some [0xC8] ∧ error (.bbgWrite 65535) State.reset = some 7 := by
  decide +kernel
/-- V23f, V23g. -/
theorem test_bbg_read : result .bbgRead (stream [0xC0]) = some [3, 0] ∧ result .bbgRead (stream [255, 255, 0]) = some [0, 1] := by
  decide +kernel
/-- V24. -/
theorem test_gamma_bits : result (.gammaBits 5) State.reset = some [5] ∧ result (.gammaBits 65535) State.reset = some [31] := by
  decide +kernel
/-- V31: the limit is inclusive. -/
theorem test_ms_init :
    error .msInit { scan 0 [] with codec := 2, srcLen := 65537 } = some 1 ∧
    result .msInit { scan 0 [] with codec := 2, srcLen := 65536 } = some [] := by decide +kernel
/-- V29: positions ascend. -/
theorem test_ms_insert : error (.msInsert 2) (afterAll [.msInit, .msInsert 4] (scan 0 [1, 2, 3, 1, 2, 3])) = some 7 := by
  decide +kernel
/-- V26 on six bytes: at 4 the node 1 is at offset 3, and two bytes end there equally. -/
theorem test_ms_walk :
    result (.msWalk 4) (afterAll [.msInit, .msInsert 1] (scan 0 [1, 2, 3, 1, 2, 3])) = some [3, 2] := by decide +kernel
/-- V30a. -/
theorem test_ms_linear : result (.msLinear 2) (scan 1 [1, 1, 1, 1]) = some [1, 2, 2, 2] := by decide +kernel
/-- R223 with an illegal `SRC_LEN` of 5 over a `SRC` of 4 bytes: the mirrored byte at 4 does not exist, the one at 3 does. -/
theorem test_mirror_beyond :
    (let s := { stream [1, 2, 3, 4] with cfg := { Config.standard with srcCap := 4 }, srcLen := 5, dMirror := true }
     result .readByte s = none ∧ result .readByte { s with rPos := 1 } = some [4]) := by decide +kernel
/-- R277, R281: behind `Q`, `FIRST` and four `LIT` the last one of END stands in a byte of its own, which the decoder does not read. -/
theorem test_plt_end_left_over :
    (let s := { stream [0x01, 0xFF, 0xFF, 0xFF, 0xFF, 0x80] with codec := 2, dState := .token, dQ := 1, dSentinel := 65536, rPos := 1, rMask := 0x01 }
     resultAfter .tdStep s (.regRead 10) = some [5]) := by decide +kernel
/-- R192 with an illegal `SRC_LEN` of 9 over a `SRC` of 4 bytes: no byte beyond is compared with `i = 0`, with `MS_MAXLEN = 1`, or behind a mismatch; the model
stops where all bytes to the end match. -/
theorem test_ms_linear_beyond :
    (let s := { scan 1 [1, 1, 2, 1] with cfg := { Config.standard with srcCap := 4 }, srcLen := 9 }
     result (.msLinear 0) s = some [] ∧ result (.msLinear 3) { s with msMaxLen := 1 } = some [2, 1, 3, 1] ∧
     result (.msLinear 2) s = some [] ∧ result (.msLinear 3) s = none) := by decide +kernel
/-- V30b. -/
theorem test_ms_step_run : result .msStepRun (afterAll [.msInit, .msStepRun] (scan 2 [1, 2, 1, 2])) = some [1] := by
  decide +kernel
/-- V84. -/
theorem test_td_start :
    (next? (exec .tdStart { stream [] with codec := 2, srcLen := 65537 })).map State.status = some 1 ∧
    error .tdStart { stream [] with srcLen := 1048577 } = some 1 := by decide +kernel
/-- P1, step 2; V87. -/
theorem test_td_step : output .tdStep (State.holding [0x41] (job 5 [0x4B, 0x42])) = some [0x41, 0x42] ∧
    error .tdStep State.reset = some 7 := by decide +kernel
/-- V33. -/
theorem test_td_run : output .tdRun (opened 0 [0, 0x41, 0xFF]) = some [0x41] := by decide +kernel
/-- V35d: the bytes that are there are written before the fault. -/
theorem test_mdk_raw : output (.mdkRaw 1) (stream [0x41, 0x42]) = some [0x41, 0x42] ∧
    (next? (exec (.mdkRaw 2) (stream [0x41, 0x42]))).map State.out = some (buffer [0x41, 0x42]) := by decide +kernel
/-- V35b. -/
theorem test_mdk_rle : output (.mdkRle 1 0x42) State.reset = some [0x42, 0x42] := by decide +kernel
/-- V32. -/
theorem test_mdk_end : (next? (exec .mdkEnd (job 0 []))).map State.status = some 0x00E := by decide +kernel
/-- V36. -/
theorem test_lzf_lrun : output (.lzfLrun 1) (stream [0x41, 0x42]) = some [0x41, 0x42] := by decide +kernel
/-- V36, V39d. -/
theorem test_lzf_short : output (.lzfShort 4 0 1) (State.holding [0x41, 0x42] State.reset) =
      some [0x41, 0x42, 0x41, 0x42, 0x41, 0x42, 0x41, 0x42] ∧
    error (.lzfShort 1 0 5) (State.holding [0x41] State.reset) = some 4 := by decide +kernel
/-- V39 with the shortest length. -/
theorem test_lzf_long : output (.lzfLong 0 0 0) (State.holding [0x41] State.reset) = some (List.replicate 10 0x41) := by
  decide +kernel
theorem test_lzf_end : (next? (exec .lzfEnd (job 1 []))).map State.status = some 0x00E := by decide +kernel
/-- V40, V41. -/
theorem test_plt_q : (next? (exec (.pltQ 2) State.reset)).map (fun t => (t.dQ, t.dSentinel)) = some (3, 65536) ∧
    error (.pltQ 7) State.reset = some 5 := by decide +kernel
theorem test_plt_first : output (.pltFirst 0x41) (opened 2 []) = some [0x41] := by decide +kernel
theorem test_plt_lit : output (.pltLit 0x42) (State.holding [0x41] (job 2 [])) = some [0x41, 0x42] := by decide +kernel
/-- V40's match; V44a: 300 bytes back, from byte AB and extra bits 2. -/
theorem test_plt_match : output (.pltMatch 1 1 0) (State.holding [0x41, 0x42] (job 2 [])) = some [0x41, 0x42, 0x41, 0x42] ∧
    pltOffset 0xAB 2 = 300 := by decide +kernel
theorem test_plt_end : (next? (exec .pltEnd (job 2 []))).map State.status = some 0x00E := by decide +kernel
theorem test_dan1_first : output (.dan1First 0x41) (opened 3 []) = some [0x41] := by decide +kernel
theorem test_dan1_lit : output (.dan1Lit 0x42) (State.holding [0x41] (job 3 [])) = some [0x41, 0x42] := by decide +kernel
/-- P2, step 2; V47: the largest offset. -/
theorem test_dan1_match : output (.dan1Match 7 (.tier1 0)) (State.holding [0x41] (job 3 [])) = some (List.replicate 8 0x41) ∧
    dan1Offset (.tier4 15 255) = 4370 := by decide +kernel
/-- V46 with a stream one byte short. -/
theorem test_dan1_raw : (next? (exec (.dan1Raw 0) (stream (List.range 27)))).map State.out = some (buffer (List.range 27)) ∧
    error (.dan1Raw 0) (stream (List.range 26)) = some 2 := by decide +kernel
theorem test_dan1_end : (next? (exec .dan1End (job 3 []))).map State.status = some 0x00E := by decide +kernel
theorem test_dan3_subset : (next? (exec (.dan3Subset 7) State.reset)).map State.dSubset = some 7 := by decide +kernel
theorem test_dan3_first : output (.dan3First 0x41) (opened 4 []) = some [0x41] := by decide +kernel
theorem test_dan3_lit : output (.dan3Lit 0x42) (State.holding [0x41] (job 4 [])) = some [0x41, 0x42] := by decide +kernel
/-- V50, its fourth and fifth tokens; V56, the subset-7 maximum. -/
theorem test_dan3_match : output (.dan3Match 1 (.two 1)) (State.holding [1, 2, 3] (job 4 [])) = some [1, 2, 3, 1] ∧
    dan3Offset (.tierC 255 255) = 65824 := by decide +kernel
/-- V52. -/
theorem test_dan3_raw : output (.dan3Raw 2) (State.holding [0x41] (job 4 [0x58, 0x59, 0x5A])) = some [0x41, 0x58, 0x59, 0x5A] := by
  decide +kernel
theorem test_dan3_end : (next? (exec .dan3End (job 4 []))).map State.status = some 0x00E := by decide +kernel
theorem test_zx7_first : output (.zx7First 0x41) (opened 5 []) = some [0x41] := by decide +kernel
theorem test_zx7_lit : output (.zx7Lit 0x42) (State.holding [0x41] (job 5 [])) = some [0x41, 0x42] := by decide +kernel
/-- P1, step 3; V61: 300 and the largest offset. -/
theorem test_zx7_match : output (.zx7Match 5 1 0) (State.holding [0x41, 0x42] (job 5 [])) =
      some [0x41, 0x42, 0x41, 0x42, 0x41, 0x42, 0x41, 0x42] ∧
    zx7Offset 0xAB 1 = 300 ∧ zx7Offset 0xFF 15 = 2176 := by decide +kernel
theorem test_zx7_end : (next? (exec .zx7End (job 5 []))).map State.status = some 0x00E := by decide +kernel
/-- V68 and P3: the state bit after one literal. -/
theorem test_zx0_lits :
    (next? (exec (.zx0Lits 1) { job 6 [0x41, 0x80] with dState := .zx0Lit })).map (fun t => (t.out, t.dState)) =
      some (buffer [0x41], .zx0New) := by decide +kernel
/-- P3, step 2. -/
theorem test_zx0_rep :
    output (.zx0Rep 3) (State.holding [0x41] { job 6 [0] with dState := .zx0Last }) = some (List.replicate 4 0x41) := by
  decide +kernel
/-- P3, step 4: `Bo = F8` is offset 4, its bit 0 the whole length code. -/
theorem test_zx0_match :
    output (.zx0Match 1 0xF8) (State.holding [1, 2, 3, 4, 5] { job 6 [0] with dState := .zx0New, rLast := 0xF8 }) =
      some [1, 2, 3, 4, 5, 2, 3] := by decide +kernel
/-- A mirrored job reverses its output (V66); an odd length keeps its middle. -/
theorem test_zx0_end : output .zx0End (State.holding [1, 2, 3] { job 6 [] with dState := .zx0New, dMirror := true }) =
    some [3, 2, 1] := by decide +kernel
/-- V73, V76b. -/
theorem test_bb_len : (next? (exec (.bbLen 0) (opened 7 []))).map State.status = some 0x00E ∧
    error (.bbLen 524289) (opened 7 []) = some 3 := by decide +kernel
theorem test_bb_lit : output (.bbLit 0x41) (job 7 []) = some [0x41] := by decide +kernel
/-- V72's match; the table below V79: (300, 5) and the largest distance. -/
theorem test_bb_match : output (.bbMatch 1 0 4) (State.holding [0x41, 0x42] (job 7 [])) =
      some [0x41, 0x42, 0x41, 0x42, 0x41, 0x42, 0x41, 0x42] ∧
    bbDistance 0xAB 2 = 300 ∧ bbDistance 0xFF 15 = 2048 := by decide +kernel
/-- V75. -/
theorem test_bb_end : error .bbEnd { State.holding [1] (job 7 []) with dHdrLen := 2 } = some 3 := by decide +kernel

/-- The interface: the first step after reset takes the command that is pending, and `withFetchWord` makes a token the next to run. -/
theorem test_step :
    (next? (core.step { State.reset with cmds := [⟨0x12, 0x41, 0⟩] })).map State.out = some (buffer [0x41]) ∧
    (next? (step (State.reset.withFetchWord 16 0x5581))).map State.out = some (buffer [0x55, 0x55]) := by
  decide +kernel

/-! ## Witnesses: states and operands that meet a statement's hypotheses, clause by clause, at the bounds of their ranges -/

/-- The reader behind the elements has a property. -/
def readsThen (es : List Elem) (s : State) (p : State → Bool) : Bool :=
  match readElems es s with
  | some t => p t
  | none => false

theorem readsThen_reads {es : List Elem} {s : State} {p : State → Bool} (h : readsThen es s p = true) :
    ∃ t, s.reads es t ∧ p t = true := by
  simp only [readsThen] at h
  split at h
  · next t ht => exact ⟨t, ht, h⟩
  · simp at h

/-- The transaction has a next state with a property. -/
def nextThen (o : Host.Outcome State Fault Refusal) (p : State → Bool) : Bool :=
  match o with
  | .next t => p t
  | .fault _ => false
  | .refused _ => false

theorem nextThen_next {o : Host.Outcome State Fault Refusal} {p : State → Bool} (h : nextThen o p = true) :
    ∃ t, o = .next t ∧ p t = true := by
  cases o with
  | next t => exact ⟨t, rfl, h⟩
  | fault f => simp [nextThen] at h
  | refused r => simp [nextThen] at h

/-- The transactions end without a fault in a state with a property. -/
def afterThen (is : List Instr) (s : State) (p : State → Bool) : Bool :=
  match after is s with
  | some t => p t
  | none => false

theorem afterThen_after {is : List Instr} {s : State} {p : State → Bool} (h : afterThen is s p = true) :
    ∃ t, after is s = some t ∧ p t = true := by
  simp only [afterThen] at h
  split at h
  · next t ht => exact ⟨t, ht, h⟩
  · simp at h

/-- The fetch of an element answers an instruction with a property. -/
def fetchThen (e : Element) (s : State) (p : Instr → State → Bool) : Bool :=
  match fetchElement e s with
  | .ok i t => p i t
  | .raised _ _ => false
  | .stuck _ => false

theorem fetchThen_fetch {e : Element} {s : State} {p : Instr → State → Bool} (h : fetchThen e s p = true) :
    ∃ i t, fetchElement e s = .ok i t ∧ p i t = true := by
  simp only [fetchThen] at h
  split at h
  · next i t ht => exact ⟨i, t, ht, h⟩
  · simp at h
  · simp at h

/-- R7, R9: the value registers have `VAL_BITS` bits, here 18: a write keeps the low ones, `RESET` leaves those of 524288, and a count wraps. -/
theorem test_val_bits :
    (let s := { State.reset with cfg := { Config.standard with valBits := 18 } }
     resultAfter (.regWrite 2 0xFFFFFFFF) s (.regRead 2) = some [0x3FFFF] ∧ resultAfter .reset s (.regRead 7) = some [0] ∧
     resultAfter (.mdkRaw 0) { job 0 [7] with cfg := s.cfg, dTokens := 0x3FFFF } (.regRead 11) = some [0]) := by
  decide +kernel

/-- `RegisterRead`: the last register and the first number behind them. -/
theorem witness_RegisterRead : ¬ (11 : Word) < 11 ∧ (11 : Word) < 12 ∧
    result (.regRead 11) { stream [] with dTokens := 5 } = some [5] ∧ result (.regRead 12) (stream []) = some [0] := by
  decide +kernel

/-- `WindowAccess`: the last index of `SRC`; the last byte of `OUT` and the first behind it; the first and the last entry of `MLEN`; a
faulted state. -/
theorem witness_WindowAccess :
    ((1048575 : Word) < State.reset.cfg.srcCap) ∧
    (let s := State.holding [5, 6] State.reset
     s.fault = false ∧ (1 : Word) < s.outLen ∧ Memory.read s.out 1 = some 6 ∧ s.outLen ≤ 2) ∧
    (let s := { scan 2 [] with mlen := Table.filled 101 0 }
     s.fault = false ∧ s.msMode = 2 ∧ (100 : Word) ≤ s.msMaxOff ∧ s.mlen.read 1 = some 0 ∧ s.mlen.read 100 = some 0) ∧
    faulted.fault = true := by decide +kernel

/-- `FaultIsSticky`. -/
theorem witness_FaultIsSticky :
    (faulted.fault = true ∧ Instr.flush.isCommand = true ∧ allowedInFault .flush = false) ∧
    (let s := { faulted with cmds := [⟨0x53, 0, 0⟩] }
     s.fault = true ∧ s.cmds = ⟨0x53, 0, 0⟩ :: [] ∧ command 0x53 0 0 = none) := by decide +kernel

/-- `LeavingTheFaultState`: all four clauses. -/
theorem witness_LeavingTheFaultState :
    faulted.fault = true ∧ State.reset.fault = false ∧ Instr.brInit ∈ [Instr.bwInit, .brInit, .msInit, .tdStart] ∧
    ∃ t, exec .abort faulted = .next t ∧ (Instr.abort.isCommand && !t.fault) = true :=
  ⟨rfl, rfl, by decide, nextThen_next (by decide +kernel)⟩

/-- `CommandCodes`: a command; the first and the last number of a gap, and the last of all. -/
theorem witness_CommandCodes : (Instr.writeBits 0xFFFFFFFF 0).isCommand = true ∧
    (∃ k, decodeCommand ⟨0x07, 0, 0⟩ = .error k) ∧ (∃ k, decodeCommand ⟨0x0F, 0, 0⟩ = .error k) ∧
    (∃ k, decodeCommand ⟨0xFF, 0, 0⟩ = .error k) ∧ State.reset.fault = false :=
  ⟨rfl, ⟨_, rfl⟩, ⟨_, rfl⟩, ⟨_, rfl⟩, rfl⟩

/-- `RaisedKinds`: a command that raises, a Pletter step that does, with the largest sentinel, and steps of DAN3 and ZX7 jobs whose sentinel is the 0 of `TD_START`. -/
theorem witness_RaisedKinds :
    (Instr.egRead 33).isCommand = true ∧ State.reset.fault = false ∧ 32 ≤ State.reset.cfg.valBits ∧
    (∃ t, exec (.egRead 33) State.reset = .next t ∧ t.fault = true) ∧
    (let s := { job 2 [] with dSentinel := 0x80000000 }
     s.fault = false ∧ s.dState ≠ .idle ∧ s.codec ≠ 4 ∧ s.dSentinel ≠ 0 ∧ s.dSentinel ≤ 0x80000000 ∧
     ∃ t, exec .tdStep s = .next t ∧ t.fault = true) ∧
    (let s := { job 4 [0] with cfg := { Config.standard with dan3ZeroLimit := 33 } }
     s.codec = 4 ∧ s.cfg.dan3Prefix = Config.standard.dan3Prefix ∧ 32 < s.cfg.dan3ZeroLimit ∧ s.fault = false ∧ 32 ≤ s.cfg.valBits ∧
     ∃ t, exec .tdStep s = .next t ∧ (t.fault && t.err = 7) = true) ∧
    (let s := job 5 [0]
     s.codec ≠ 4 ∧ s.codec ≠ 2 ∧ s.dSentinel = 0 ∧ s.fault = false ∧ s.dState ≠ .idle ∧
     ∃ t, exec .tdStep s = .next t ∧ (t.fault && t.err = 2) = true) :=
  ⟨rfl, rfl, by decide, nextThen_next (by decide +kernel),
    ⟨rfl, by decide, by decide, by decide +kernel, by decide +kernel, nextThen_next (by decide +kernel)⟩,
    ⟨rfl, rfl, by decide, rfl, by decide, nextThen_next (by decide +kernel)⟩,
    by decide, by decide, rfl, rfl, by decide, nextThen_next (by decide +kernel)⟩

/-- `WriteBitEffect`: the six cases; a buffer with room for one byte more, and a full one. -/
theorem witness_WriteBitEffect :
    (let s := { narrow [4, 6] with wBacktrack := true }
     s.fault = false ∧ s.wBacktrack = true ∧ (1 : Word) ≤ s.outLen ∧ s.outLen ≤ s.cfg.outCap ∧ Memory.read s.out 1 = some 6) ∧
    (let s := { narrow [4, 6] with wMask := 0x01, wIndex := 1 }
     s.fault = false ∧ s.wBacktrack = false ∧ s.wMask ≠ 0 ∧ s.wIndex < s.outLen ∧ s.wIndex < s.cfg.outCap) ∧
    (let s := narrow [4]
     s.fault = false ∧ s.wBacktrack = false ∧ s.wMask = 0 ∧ s.outLen < s.cfg.outCap) ∧
    (let s := narrow [4, 6]
     s.fault = false ∧ s.wBacktrack = false ∧ s.wMask = 0 ∧ s.outLen = s.cfg.outCap) := by decide +kernel

/-- `WriteByteEffect` and `LiteralTokens`. -/
theorem witness_WriteByteEffect : (narrow [4]).fault = false ∧ (narrow [4]).outLen < (narrow [4]).cfg.outCap ∧
    (narrow [4, 6]).outLen = (narrow [4, 6]).cfg.outCap ∧ literalOf (.zx7Lit 5) = some 5 := by decide +kernel

/-- The writer of a buffer of two bytes can take 16 bits. -/
theorem narrow_writes : (narrow []).writesBits 16 := by
  refine ⟨rfl, ?_, ?_, ?_⟩
  · decide +kernel
  · decide +kernel
  · unfold State.roomFor; decide +kernel

/-- The writer after reset can take 63 bits, the longest code. -/
theorem reset_writes (n : Nat) (h : n ≤ 63) : State.reset.writesBits n := by
  refine ⟨rfl, by decide +kernel, by decide +kernel, ?_⟩
  have e : State.reset.outLen.toNat = 0 := rfl
  have c : State.reset.cfg.outCap.toNat = 1048576 := rfl
  unfold State.roomFor
  omega

/-- `WriteBitsEffect`: all 32 bits, and 33. -/
theorem witness_WriteBitsEffect : ((32 : Word) ≤ 32 ∧ State.reset.writesBits (32 : Word).toNat) ∧
    State.reset.fault = false ∧ (32 : Word) < 33 := ⟨⟨by decide, reset_writes _ (by decide)⟩, rfl, by decide⟩

/-- `BacktrackFlagsAndFlush`. -/
theorem witness_BacktrackFlagsAndFlush : (narrow [4]).fault = false ∧ (narrow [4]).outLen ≠ 0 ∧ (narrow []).outLen = 0 := by
  decide +kernel

/-- `ReadBitEffect`: a pending bit; the last bit of an open byte; the last byte of the stream, forwards and mirrored; its end. -/
theorem witness_ReadBitEffect :
    (let s := { stream [] with rBacktrack := true }
     s.fault = false ∧ s.rBacktrack = true) ∧
    (let s := { stream [7] with rMask := 0x01, rPos := 1 }
     s.fault = false ∧ s.rBacktrack = false ∧ s.rMask ≠ 0 ∧ s.rIndex < s.srcLen ∧ s.srcLen ≤ s.cfg.srcCap ∧
     Memory.read s.src (s.physical s.rIndex.toNat) = some 7) ∧
    (let s := { stream [7, 8] with dMirror := true, rPos := 1 }
     s.fault = false ∧ s.rBacktrack = false ∧ s.rMask = 0 ∧ s.rPos < s.srcLen ∧ s.srcLen ≤ s.cfg.srcCap ∧
     Memory.read s.src (s.physical s.rPos.toNat) = some 7) ∧
    (let s := { stream [7] with rPos := 1 }
     s.fault = false ∧ s.rBacktrack = false ∧ s.rMask = 0 ∧ s.srcLen ≤ s.rPos) := by decide +kernel

/-- `ReadByteEffect`. -/
theorem witness_ReadByteEffect :
    (let s := { stream [7, 8] with rPos := 1 }
     s.fault = false ∧ s.rPos < s.srcLen ∧ s.srcLen ≤ s.cfg.srcCap ∧
     Memory.read s.src (s.physical s.rPos.toNat) = some 8) ∧
    (stream []).fault = false ∧ (stream []).srcLen ≤ (stream []).rPos := by decide +kernel

/-- `ReadBitsEffect`: no bit at all, 32 bits, and 33. -/
theorem witness_ReadBitsEffect :
    (∃ t, (stream []).reads (bitElems (msbFirst 0 0)) t ∧ t.fault = false) ∧
    (∃ t, (stream [255, 255, 255, 255]).reads (bitElems (msbFirst 0xFFFFFFFF 32)) t ∧ (t.rPos = 4 : Bool) = true) ∧
    (0xFFFFFFFF : Word).toNat < 2 ^ (32 : Word).toNat ∧ (32 : Word) ≤ 32 ∧ (32 : Word) < 33 :=
  ⟨⟨_, rfl, rfl⟩, readsThen_reads (by decide +kernel), by decide, by decide, by decide⟩

/-- Eight bits, a byte, and a byte that carries a bit: the bit byte is full when the shared byte comes. -/
def samplePrims : List Prim :=
  [.bit true, .byte 0x11, .bit false, .bit true, .shared 0xFE true, .bit true]

/-- `PrimitiveRoundTrip` and `WrittenSize`. -/
theorem witness_PrimitiveRoundTrip :
    samplePrims.all Prim.ok = true ∧ ∃ t, after (.bwInit :: samplePrims.flatMap Prim.writes) State.reset = some t ∧
      (t.outLen = 3 ∧ t.out = buffer [0xB0, 0x11, 0xFF] : Bool) = true ∧
      (stream [0xB0, 0x11, 0xFF]).srcLen = 3 ∧
      (stream [0xB0, 0x11, 0xFF]).srcLen ≤ (stream [0xB0, 0x11, 0xFF]).cfg.srcCap ∧
      (stream [0xB0, 0x11, 0xFF]).src = buffer [0xB0, 0x11, 0xFF] := by
  obtain ⟨t, ht, hp⟩ := afterThen_after (is := .bwInit :: samplePrims.flatMap Prim.writes) (s := State.reset)
    (p := fun t => (t.outLen = 3 ∧ t.out = buffer [0xB0, 0x11, 0xFF])) (by decide +kernel)
  exact ⟨by decide, t, ht, hp, by decide +kernel, by decide +kernel, rfl⟩

/-- `GammaWriters`: the longest code of each, and the values out of range. -/
theorem witness_GammaWriters :
    ((0xFFFFFFFF : Word) ≠ 0 ∧ State.reset.writesBits (2 * Nat.log2 (0xFFFFFFFF : Word).toNat + 1)) ∧
    ((65534 : Word).toNat ≤ 65534 ∧ State.reset.writesBits (2 * Nat.log2 ((65534 : Word).toNat + 1) + 1)) ∧
    (65535 : Word) ≤ 65535 ∧ State.reset.fault = false :=
  ⟨⟨by decide, reset_writes _ (by decide +kernel)⟩, ⟨by decide, reset_writes _ (by decide +kernel)⟩, by decide, rfl⟩

/-- `EgReadLaw`: the largest value below the limit; the run of zeros; the largest value under limit 0; the first limit refused; the first value that does not
fit 4 bits. -/
theorem witness_EgReadLaw :
    (∃ t, (stream [0x1E]).reads (bitElems (codeEg 15)) t ∧ (t.rPos = 1 : Bool) = true) ∧
    (15 : Word).toNat < 2 ^ (4 : Word).toNat ∧
    (∃ t, (stream [0x07]).reads (bitElems (List.replicate 4 false)) t ∧ (t.rPos = 1 : Bool) = true) ∧
    (∃ t, (stream [0, 0, 0, 1, 255, 255, 255, 254]).reads (bitElems (codeEg 0xFFFFFFFF)) t ∧ (t.rPos = 8 : Bool) = true) ∧
    (32 : Word) < 33 ∧ (0xFFFFFFFF : Word).toNat < 2 ^ State.reset.cfg.valBits ∧
    (let s := { stream [0x08, 0] with cfg := { Config.standard with valBits := 4 } }
     2 ^ s.cfg.valBits ≤ (16 : Word).toNat ∧ ∃ t, s.reads (bitElems (codeEg 16)) t ∧ (t.rPos = 2 : Bool) = true) :=
  ⟨readsThen_reads (by decide +kernel), by decide, readsThen_reads (by decide +kernel), readsThen_reads (by decide +kernel),
    by decide, by decide +kernel, by decide, readsThen_reads (by decide +kernel)⟩

/-- `IgReadLaw`: 65535 under the sentinel 65536 (V20); the pairs that reach it (V23d); the tag that would leave 32 bits (V23h). -/
theorem witness_IgReadLaw :
    (∃ t, (stream [0xFF, 0xFF, 0xFF, 0xFC]).reads
      (bitElems (codeIg (State.reset.cfg.igCont ^^ (0 : Word).getLsbD 1) ((0 : Word).getLsbD 0) 65535)) t ∧
      (t.rPos = 4 : Bool) = true) ∧
    (65535 : Word) < 65536 ∧
    (∃ t, (stream [0xFF, 0xFF, 0xFF, 0xFF]).reads
      (bitElems ((List.replicate 16 true).flatMap fun b => [State.reset.cfg.igCont ^^ (0 : Word).getLsbD 1, b])) t ∧
      (t.rPos = 4 : Bool) = true) ∧
    (65536 : Word).toNat = 2 ^ (List.replicate 16 true).length ∧
    (∃ t, (stream (List.replicate 9 0xAA)).reads
      (bitElems (((List.replicate 31 false).flatMap fun b => [State.reset.cfg.igCont ^^ (0 : Word).getLsbD 1, b]) ++
        [State.reset.cfg.igCont ^^ (0 : Word).getLsbD 1])) t ∧ (t.rPos = 8 : Bool) = true) ∧
    65535 < 2 ^ State.reset.cfg.valBits ∧ 16 < State.reset.cfg.valueBits ∧ 31 + 1 = State.reset.cfg.valueBits :=
  ⟨readsThen_reads (by decide +kernel), by decide, readsThen_reads (by decide +kernel), by decide,
    readsThen_reads (by decide +kernel), by decide +kernel, by decide +kernel, by decide +kernel⟩

/-- `BbgReadLaw`: the largest value (V21), the end run, and with 4 bits the largest value that fits and the first that does not. -/
theorem witness_BbgReadLaw :
    (∃ t, (stream [0xFF, 0xFE, 0xFF, 0xFE]).reads (bitElems (codeBbg 65534)) t ∧ (t.rPos = 4 : Bool) = true) ∧
    (∃ t, (stream [0xFF, 0xFF]).reads (bitElems (List.replicate 16 true)) t ∧ (t.rPos = 2 : Bool) = true) ∧
    65534 < 2 ^ State.reset.cfg.valBits ∧
    (let s := { stream [0xF0, 0x00] with cfg := { Config.standard with valBits := 4 } }
     (15 : Word).toNat < 2 ^ s.cfg.valBits ∧ ∃ t, s.reads (bitElems (codeBbg 15)) t ∧ (t.rPos = 2 : Bool) = true) ∧
    (let s := { stream [0xF0, 0x80] with cfg := { Config.standard with valBits := 4 } }
     2 ^ s.cfg.valBits ≤ (16 : Word).toNat ∧ ∃ t, s.reads (bitElems (codeBbg 16)) t ∧ (t.rPos = 2 : Bool) = true) :=
  ⟨readsThen_reads (by decide +kernel), readsThen_reads (by decide +kernel), by decide +kernel,
    ⟨by decide, readsThen_reads (by decide +kernel)⟩, by decide, readsThen_reads (by decide +kernel)⟩

/-- `GammaBitsValue`. -/
theorem witness_GammaBitsValue : State.reset.fault = false ∧ (1 : Word) ≠ 0 := by decide

/-- `ScanStart`: each mode, the largest `MS_MAXOFF`, the first refused, and the limit of V31. -/
theorem witness_ScanStart :
    (scan 3 []).msMode = 3 ∧ { scan 0 [] with msMaxOff := 0 }.msMaxOff = 0 ∧ { scan 0 [] with msMaxLen := 0 }.msMaxLen = 0 ∧
    (scan 0 []).cfg.srcCap < 1048577 ∧
    (let s := { scan 0 [] with msMaxOff := 1048576, codec := 2, srcLen := 65536 }
     s.msMode ≠ 3 ∧ s.msMaxOff ≠ 0 ∧ s.msMaxOff ≤ s.cfg.srcCap ∧ s.msMaxLen ≠ 0 ∧ s.srcLen.toNat ≤ s.inputLimit) ∧
    (let s := { scan 0 [] with codec := 2, srcLen := 65537 }
     s.msMode ≠ 3 ∧ s.msMaxOff ≠ 0 ∧ s.msMaxOff ≤ s.cfg.srcCap ∧ s.msMaxLen ≠ 0 ∧ s.inputLimit < s.srcLen.toNat) ∧
    (scan 1 []).msMode = 1 ∧ (scan 2 []).msMode = 2 := by decide +kernel

/-- `InsertEffect`: the largest position, the first behind it, and one already passed. -/
theorem witness_InsertEffect :
    (let s := afterAll [.msInit, .msInsert 1] (scan 0 [1, 2, 1])
     s.fault = false ∧ s.msMode = 0 ∧ (2 : Word) ≠ 0 ∧ (2 : Word) < s.srcLen ∧ s.sPos ≤ 2 ∧ s.srcLen ≤ s.cfg.srcCap ∧
     s.canonical = true ∧ s.srcLen ≤ 3 ∧ (1 : Word) < s.sPos ∧ s.head.read 0x0102 = some 1) := by decide +kernel

/-- The scan job over three equal bytes with position 1 inserted. -/
def chainState : State :=
  { scan 0 [1, 1, 1] with
    head := (Table.filled 65536 0xFFFFFFFF).write 0x0101 1
    prev := { span := 0, fill := 0, cells := [(1, 0xFFFFFFFF)] }
    sPos := 2 }

/-- It is what the operations make. -/
theorem chainState_reached :
    (let t := afterAll [.msInit, .msInsert 1] (scan 0 [1, 1, 1])
     t.head = chainState.head ∧ t.prev = chainState.prev ∧ t.sPos = chainState.sPos ∧ t.fault = false) := by decide +kernel

theorem chainState_isChain : chainState.isChain (chainState.headEntry 0x0101) [1] := by
  have h1 : chainState.headEntry 0x0101 = 1 := by decide +kernel
  have h2 : chainState.prevEntry (1 : Word).toNat = 0xFFFFFFFF := by decide +kernel
  rw [h1]
  exact ⟨rfl, by decide +kernel, by decide +kernel, by rw [h2]; rfl⟩

theorem chainState_ok : chainState.chainsOk := by
  refine ⟨by decide +kernel, by decide +kernel, by decide +kernel, by decide +kernel, fun key hk => ?_⟩
  by_cases h : key = 0x0101
  · subst h
    refine ⟨[1], chainState_isChain, by simp, fun j hj => ?_⟩
    obtain rfl : j = 1 := by simpa using hj
    decide +kernel
  · refine ⟨[], ?_, by simp, by simp⟩
    show chainState.headEntry key = chainState.cfg.nil
    have : chainState.head.read key = some 0xFFFFFFFF := by
      show ((Table.filled 65536 0xFFFFFFFF).write 0x0101 1).read key = _
      rw [Table.read_write_other _ _ h, Table.read_filled, if_pos hk]
    rw [State.headEntry, this]
    rfl

/-- `ChainsAreKept`: a first `MS_INIT`, and an insertion behind the one that was made. -/
theorem witness_ChainsAreKept :
    ((scan 0 [1, 1, 1]).canonical = true ∧ (scan 0 [1, 1, 1]).msMode = 0 ∧
      (scan 0 [1, 1, 1]).cfg.srcCap ≤ (scan 0 [1, 1, 1]).cfg.nil ∧
      ∃ t, exec .msInit (scan 0 [1, 1, 1]) = .next t ∧ (!t.fault) = true) ∧
    chainState.chainsOk ∧ chainState.msMode = 0 ∧ ∃ t, exec (.msInsert 2) chainState = .next t ∧ (!t.fault) = true :=
  ⟨⟨by decide +kernel, rfl, by decide +kernel, nextThen_next (by decide +kernel)⟩, chainState_ok, rfl,
    nextThen_next (by decide +kernel)⟩

/-- `WalkResult`, `WalkSoundness` and `WalkCompleteness`: at position 2 the chain holds 1; the positions refused are 0 and 3. -/
theorem witness_Walk :
    chainState.fault = false ∧ chainState.msMode = 0 ∧ chainState.srcLen ≤ 3 ∧
    (2 : Word) ≠ 0 ∧ (2 : Word) < chainState.srcLen ∧ chainState.srcLen ≤ chainState.cfg.srcCap ∧ chainState.msMaxLen ≠ 0 ∧
    (chainState.codec ≠ 3 ∨ chainState.opt.getLsbD 6 = false) ∧
    chainState.chainsOk ∧ chainState.keyAt (2 : Word).toNat = 0x0101 ∧
    (chainState.srcByte 1).toNat * 256 + (chainState.srcByte 2).toNat = 0x0101 ∧
    chainState.isChain (chainState.headEntry 0x0101) [1] ∧ [(1 : Word)].Pairwise (· > ·) ∧
    (∀ j : Word, 1 ≤ j → j < 2 → chainState.keyAt j.toNat = chainState.keyAt (2 : Word).toNat → j ∈ [(1 : Word)]) ∧
    result (.msWalk 2) chainState = some [1, 2] := by
  refine ⟨rfl, rfl, by decide +kernel, by decide, by decide +kernel, by decide +kernel, by decide +kernel, .inl (by decide +kernel),
    chainState_ok, by decide +kernel, by decide +kernel, chainState_isChain, by simp, fun j h1 h2 _ => ?_, by decide +kernel⟩
  have : j = 1 := by bv_omega
  simp [this]

/-- `LinearResult`: the last position and the first behind it. -/
theorem witness_LinearResult :
    (let s := scan 1 [1, 1, 1]
     s.fault = false ∧ s.msMode = 1 ∧ (2 : Word) < s.srcLen ∧ s.srcLen ≤ s.cfg.srcCap ∧ s.srcLen ≤ 3) := by decide +kernel

/-- `StepRunEffect`: the last position, at which offset 2 is the largest in range, and the end of the data. -/
theorem witness_StepRunEffect :
    (let s := afterAll [.msInit, .msStepRun, .msStepRun] (scan 2 [1, 1, 1])
     s.fault = false ∧ s.msMode = 2 ∧ s.sPos < s.srcLen ∧ s.srcLen ≤ s.cfg.srcCap ∧ s.canonical = true ∧
     2 ≤ min s.msMaxOff.toNat s.sPos.toNat ∧ s.mlen.read 2 = some 0 ∧ s.mlen.read 1 = some 1 ∧
     min s.msMaxOff.toNat s.sPos.toNat < 3) ∧
    (let s := { scan 2 [1] with sPos := 1 }
     s.fault = false ∧ s.msMode = 2 ∧ s.srcLen ≤ s.sPos) := by decide +kernel

/-- `ScanModes`. -/
theorem witness_ScanModes : (scan 3 []).fault = false ∧ (scan 3 []).msMode ≠ 0 ∧ (scan 3 []).msMode ≠ 1 ∧ (scan 3 []).msMode ≠ 2 := by
  decide +kernel

/-- `DecodeStart`: the largest `SRC_LEN` and the first refused (V84). -/
theorem witness_DecodeStart : { stream [] with srcLen := 1048576 }.srcLen ≤ State.reset.cfg.srcCap ∧
    State.reset.cfg.srcCap < { stream [] with srcLen := 1048577 }.srcLen := by decide +kernel

/-- `StepWithoutReading`. -/
theorem witness_StepWithoutReading : (stream []).fault = false ∧ (stream []).dState = .idle ∧
    { stream [] with dState := .done }.dState = .done ∧
    (opened 1 []).dState = .header ∧ (opened 1 []).srcLen = 0 ∧ (opened 1 []).codec ∉ [(0 : BitVec 3), 7] := by decide +kernel

/-- `StepRunsTheToken`: a token fetched, and a stream that ends. -/
theorem witness_StepRunsTheToken :
    ((job 5 [0x40, 0x42]).fault = false ∧ (job 5 [0x40, 0x42]).dState ∈ [DState.token, .zx0Lit, .zx0Last, .zx0New] ∧
      (job 5 [0x40, 0x42]).tokenElement = .ok .zx7Token) ∧
    (∃ i t, fetchElement .zx7Token (job 5 [0x40, 0x42]) = .ok i t ∧ (decide (i = .zx7Lit 0x42) && !t.fault) = true) ∧
    (∃ k t, fetchElement .zx7Token (job 5 []) = .raised k t) :=
  ⟨⟨rfl, by decide +kernel, rfl⟩, fetchThen_fetch (by decide +kernel), ⟨_, _, rfl⟩⟩

/-- `StepRunsTheHeader`: one stream for each kind of header. -/
theorem witness_StepRunsTheHeader :
    ((opened 0 []).dState = .header ∧ (opened 0 []).codec = 0) ∧ ((opened 1 [0xFF]).codec = 1 ∧ (opened 1 [0xFF]).srcLen ≠ 0) ∧
    ((opened 6 [1]).codec = 6 ∧ (opened 6 [1]).srcLen ≠ 0) ∧
    (∃ i t, fetchElement .dan1First (opened 3 [0x41]) = .ok i t ∧ (decide (i = .dan1First 0x41) && !t.fault) = true) ∧
    (∃ i t, fetchElement .bbLen (opened 7 [8, 0, 0, 0]) = .ok i t ∧ (decide (i = .bbLen 8) && !t.fault) = true) ∧
    (∃ i t, fetchElement .pltFirst { opened 2 [0x41] with opt := 8, dQ := 2, dSentinel := 131072 } = .ok i t ∧
      (decide (i = .pltFirst 0x41) && t.optDsk2rom) = true) ∧
    (∃ i t, fetchElement .pltQ (opened 2 [0x0D, 0x41]) = .ok i t ∧
      (match runToken i t with
        | .ok () u => fetchThen .pltFirst u fun j _ => j = .pltFirst 0x41
        | .raised _ _ => false
        | .stuck _ => false) = true) ∧
    (∃ i t, fetchElement .dan3Subset (opened 4 [0x0F, 0x41]) = .ok i t ∧
      (match runToken i t with
        | .ok () u => fetchThen .dan3First u fun j _ => j = .dan3First 0x41
        | .raised _ _ => false
        | .stuck _ => false) = true) :=
  ⟨by decide +kernel, by decide +kernel, by decide +kernel, fetchThen_fetch (by decide +kernel), fetchThen_fetch (by decide +kernel),
    fetchThen_fetch (by decide +kernel), fetchThen_fetch (by decide +kernel), fetchThen_fetch (by decide +kernel)⟩

/-- `StepOverALiteral`: tag 0 in ZX7 and tag 1 in DAN1, the literal filling the buffer. -/
theorem witness_StepOverALiteral :
    (let s := { job 5 [0x40, 0x42] with cfg := { Config.standard with outCap := 1 } }
     s.fault = false ∧ s.dState = .token ∧ s.codec ∈ [(2 : BitVec 3), 5, 7] ∧ s.roomFor 1 ∧
     ∃ t, s.reads [.bit false, .byte 0x42] t ∧ (t.rPos = 2 : Bool) = true) ∧
    ((job 3 [0x80, 0x42]).codec ∈ [(3 : BitVec 3), 4] ∧
      ∃ t, (job 3 [0x80, 0x42]).reads [.bit true, .byte 0x42] t ∧ (t.rPos = 2 : Bool) = true) :=
  ⟨⟨rfl, rfl, by decide +kernel, by unfold State.roomFor; decide +kernel, readsThen_reads (by decide +kernel)⟩,
    by decide +kernel, readsThen_reads (by decide +kernel)⟩

theorem job_ok : (job 5 [0x40, 0x42]).jobOk := by
  refine ⟨rfl, ⟨by decide +kernel, by decide +kernel, by decide +kernel⟩, by decide, fun _ => by decide +kernel⟩

/-- `RunTerminates`, `RunIsSteps`, `StepConsumes`: a step that goes on, and one that faults. -/
theorem witness_Run :
    (job 5 [0x40, 0x42]).jobOk ∧ (job 5 [0x40, 0x42]).dState ≠ .idle ∧
    (∃ t, exec .tdStep (job 5 [0x40, 0x42]) = .next t ∧ (!t.fault && t.dState = .token) = true) ∧
    (opened 5 [0x41]).streamOk ∧ (∃ t, exec .tdStep (job 5 []) = .next t ∧ t.fault = true) :=
  ⟨job_ok, by decide, nextThen_next (by decide +kernel), ⟨by decide +kernel, by decide +kernel, by decide +kernel⟩,
    nextThen_next (by decide +kernel)⟩

/-- `CopyEffect` and `MatchTokens`: the farthest offset and the last byte that fits; one too far, one too many. -/
theorem witness_CopyEffect :
    (1 ≤ 1 ∧ 1 ≤ (narrow [4]).outLen.toNat ∧ (narrow [4]).roomFor 1 ∧ ¬ (narrow [4]).roomFor 2 ∧
      (narrow [4]).outLen ≤ (narrow [4]).cfg.outCap ∧ (narrow [4]).outLen.toNat < 2) ∧
    matchShape (.dan1Match 1 (.tier1 0)) = some (1, 1) ∧ matchShape (.dan1Match 2 (.tier1 1)) = some (2, 2) ∧
    matchShape (.bbMatch 0 0 0) = some (1, 2) := by
  unfold State.roomFor
  decide +kernel

/-- `OffsetRanges`: each format's smallest and largest offset. -/
theorem witness_OffsetRanges :
    matchShape (.lzfShort 1 31 255) = some (8192, 3) ∧ matchShape (.lzfLong 30 255 255) = some (7936, 264) ∧
    (Instr.lzfLong 30 255 255).wf = true ∧
    (let c := { tableCtx with q := 7, sentinel := 65536 }
     encodableIn c (.pltMatch 1 255 63) = true ∧ c.q ≠ 0 ∧ matchShape (.pltMatch 1 255 63) = some (8192, 2)) ∧
    (Instr.dan1Match 1 (.tier2 15)).wf = true ∧ matchShape (.dan1Match 1 (.tier2 15)) = some (18, 1) ∧
    (Instr.dan1Match 2 (.tier3 255)).wf = true ∧ matchShape (.dan1Match 2 (.tier3 255)) = some (274, 2) ∧
    (Instr.dan1Match 65535 (.tier4 15 255)).wf = true ∧ matchShape (.dan1Match 65535 (.tier4 15 255)) = some (4370, 65535) ∧
    encodableIn tableCtx (.dan3Match 1 (.two 1)) = true ∧ matchShape (.dan3Match 1 (.two 1)) = some (3, 1) ∧
    (let c := { tableCtx with subset := 7 }
     encodableIn c (.dan3Match 2 (.tierC 255 255)) = true ∧ matchShape (.dan3Match 2 (.tierC 255 255)) = some (65824, 2)) ∧
    (Instr.zx7Match 65535 255 15).wf = true ∧ matchShape (.zx7Match 65535 255 15) = some (2176, 65536) ∧
    (Instr.bbMatch 255 15 65534).wf = true ∧ matchShape (.bbMatch 255 15 65534) = some (2048, 65536) := by decide +kernel

/-- `RunTokens`: the shortest run whole, the same run truncated, and a run that just fits. -/
theorem witness_RunTokens :
    runLength (.mdkRaw 0) = some 1 ∧ (stream [0x41]).fault = false ∧
    (∃ t, (stream [0x41]).reads ((bytes [0x41]).map .byte) t ∧ (t.rPos = 1 : Bool) = true) ∧
    (∃ t, (stream []).reads (([] : List Byte).map .byte) t ∧ (decide (t.srcLen ≤ t.rPos)) = true) ∧
    (stream [0x41]).roomFor (bytes [0x41]).length ∧ (narrow [4]).roomFor ((0 : BitVec 7).toNat + 1) := by
  refine ⟨rfl, rfl, readsThen_reads (by decide +kernel), readsThen_reads (by decide +kernel), ?_, ?_⟩ <;> unfold State.roomFor <;>
    decide +kernel

/-- `EndTokens`. -/
theorem witness_EndTokens : (job 7 []).fault = false ∧ (job 7 []).outLen = (job 7 []).dHdrLen ∧
    { job 7 [] with dHdrLen := 1 }.outLen ≠ { job 7 [] with dHdrLen := 1 }.dHdrLen := by decide +kernel

/-- `HeaderTokens`: the largest `q`, the largest length and the first refused. -/
theorem witness_HeaderTokens : (opened 7 []).fault = false ∧ (6 : BitVec 3) ≠ 7 ∧ (524288 : Word) ≠ 0 ∧
    (524288 : Word) ≤ (opened 7 []).bbMaxInput ∧ (opened 7 []).bbMaxInput < 524289 := by decide +kernel

/-- `Zx0LiteralRun`. -/
theorem witness_Zx0LiteralRun :
    (job 6 [0x41, 0x80]).fault = false ∧ (job 6 [0x41, 0x80]).roomFor (bytes [0x41]).length ∧
    ∃ t, (job 6 [0x41, 0x80]).reads ((bytes [0x41]).map .byte ++ [.bit true]) t ∧ (t.rPos = 2 : Bool) = true :=
  ⟨rfl, by unfold State.roomFor; decide +kernel, readsThen_reads (by decide +kernel)⟩

/-- `Zx0RepeatedOffset`: the farthest offset, one too far, and none. -/
theorem witness_Zx0RepeatedOffset :
    (let s := State.holding [1, 2] { job 6 [0] with dLastOffset := 2 }
     s.fault = false ∧ 1 ≤ s.dLastOffset ∧ s.dLastOffset ≤ s.outLen ∧ s.roomFor (3 : Word).toNat ∧
     ∃ t, s.reads [.bit false] t ∧ (t.rPos = 1 : Bool) = true) ∧
    (job 6 []).outLen < (job 6 []).dLastOffset ∧ { job 6 [] with dLastOffset := 0 }.dLastOffset = 0 :=
  ⟨⟨rfl, by decide +kernel, by decide +kernel, by unfold State.roomFor; decide +kernel, readsThen_reads (by decide +kernel)⟩,
    by decide +kernel, rfl⟩

/-- The state of `Zx0NewOffset`'s witness: P3, step 4, with five bytes out. -/
def newOffsetState : State := State.holding [1, 2, 3, 4, 5] { job 6 [0] with dState := .zx0New, rLast := 0xF8 }

/-- `Zx0NewOffset`: offset 4 and length 2; the smallest offset and the largest. -/
theorem witness_Zx0NewOffset :
    newOffsetState.fault = false ∧ newOffsetState.rLast = 0xF8 ∧
    4 = (1 : Word).toNat * 128 - (0xF8 : Byte).toNat / 2 ∧ (1 : Word) ≤ 1 ∧ (255 : Word) ≤ 255 ∧
    1 = (1 : Word).toNat * 128 - (0xFE : Byte).toNat / 2 ∧ 32640 = (255 : Word).toNat * 128 - (0x00 : Byte).toNat / 2 ∧
    (∃ t, State.reads { newOffsetState with dLastOffset := BitVec.ofNat 32 4, rBacktrack := true }
      (bitElems (codeIg (newOffsetState.cfg.igCont ^^ newOffsetState.opt.getLsbD 1) false (2 - 1))) t ∧
      readsThen [.bit false] t (fun w => w.rPos = 1) = true) ∧
    4 ≤ newOffsetState.outLen.toNat ∧ newOffsetState.roomFor 2 ∧ newOffsetState.outLen.toNat < 6 ∧ 2 < 2 ^ newOffsetState.cfg.valueBits ∧
    32640 < 2 ^ newOffsetState.cfg.valueBits :=
  ⟨rfl, rfl, by decide, by decide, by decide, by decide, by decide, readsThen_reads (by decide +kernel), by decide +kernel,
    by unfold State.roomFor; decide +kernel, by decide +kernel, by decide +kernel, by decide +kernel⟩

/-- `Zx0End`: a job that is not mirrored, and a mirrored one with three bytes out. -/
theorem witness_Zx0End : (job 6 []).fault = false ∧ (job 6 []).dMirror = false ∧
    (let s := State.holding [1, 2, 3] { job 6 [] with dMirror := true }
     s.dMirror = true ∧ s.outWritten) := by
  refine ⟨rfl, rfl, rfl, by decide +kernel, ?_⟩
  decide +kernel

/-- `TokenRoundTrip`: the job of the default parameters with `q = 7` and `subset = 7`, and one whose `q` and sentinel are the zeros of `TD_START`. -/
theorem witness_TokenRoundTrip :
    (let c := { tableCtx with q := 7, sentinel := 65536, subset := 7 }
     c.cfg.sound = true ∧ encodableIn c (.pltMatch 65535 255 63) = true ∧ encodableIn c .pltEnd = true ∧
     encodableIn c (.dan3Match 65535 (.tierC 255 255)) = true ∧ encodableIn c (.zx0Match 255 0) = true ∧
     encodableIn c (.zx0Lits 0xFFFFFFFF) = true ∧ encodableIn { c with cfg := { Config.standard with valBits := 18 } } (.zx0Lits 0x40000) = false ∧
     elementOf (.pltMatch 65535 255 63) = some .pltToken) ∧
    (tableCtx.q = 0 ∧ tableCtx.sentinel = 0 ∧ tableCtx.cfg.sound = true ∧ encodableIn tableCtx (.bbMatch 0xFF 15 65533) = true ∧
     encodableIn tableCtx .zx0End = true ∧ elementOf .zx0End = some .zx0New) := by decide +kernel

/-- `FetchFromTheStream`: V40's match; `DAN3.SUBSET`, whose ones are counted; and a literal of a ZX7 job whose `d_q` and `d_sentinel` are 0. -/
theorem witness_FetchFromTheStream :
    (let s := { job 2 [0xD8, 0x01] with dQ := 1, dSentinel := 65536 }
     s.cfg.sound = true ∧ encodableIn s.decodeCtx (.pltMatch 5 1 0) = true ∧
     elementOf (.pltMatch 5 1 0) = some .pltToken ∧
     encodeElems s.decodeCtx (.pltMatch 5 1 0) = (bits [1, 1, 0, 1, 1, 0] ++ byte 1) ++ unreadElems (.pltMatch 5 1 0) ∧
     ∃ t, s.reads (bits [1, 1, 0, 1, 1, 0] ++ byte 1) t ∧ (t.rPos = 2 : Bool) = true) ∧
    (let s := opened 4 [0xC0]
     s.dSentinel = 0 ∧ s.cfg.sound = true ∧ encodableIn s.decodeCtx (.dan3Subset 2) = true ∧
     elementOf (.dan3Subset 2) = some .dan3Subset ∧
     encodeElems s.decodeCtx (.dan3Subset 2) = bits [1, 1, 0] ++ unreadElems (.dan3Subset 2) ∧
     ∃ t, s.reads (bits [1, 1, 0]) t ∧ (t.rMask = 0x10 : Bool) = true) ∧
    (let s := job 5 [0x00, 0x41]
     s.dQ = 0 ∧ s.dSentinel = 0 ∧ s.cfg.sound = true ∧ encodableIn s.decodeCtx (.zx7Lit 0x41) = true ∧
     elementOf (.zx7Lit 0x41) = some .zx7Token ∧
     encodeElems s.decodeCtx (.zx7Lit 0x41) = (bits [0] ++ byte 0x41) ++ unreadElems (.zx7Lit 0x41) ∧
     ∃ t, s.reads (bits [0] ++ byte 0x41) t ∧ (t.rPos = 2 : Bool) = true) :=
  ⟨⟨by decide +kernel, by decide +kernel, by decide +kernel, by decide +kernel, readsThen_reads (by decide +kernel)⟩,
    ⟨rfl, by decide +kernel, by decide +kernel, by decide +kernel, by decide +kernel, readsThen_reads (by decide +kernel)⟩,
    rfl, rfl, by decide +kernel, by decide +kernel, by decide +kernel, by decide +kernel, readsThen_reads (by decide +kernel)⟩

/-- `StepRunsTheCommand`. -/
theorem witness_StepRunsTheCommand :
    { State.reset with cmds := [⟨0x51, 0, 0⟩] }.cmds = ⟨0x51, 0, 0⟩ :: [] ∧ decodeCommand ⟨0x51, 0, 0⟩ = .ok .tdStep ∧
    State.reset.cmds = [] := ⟨rfl, rfl, rfl⟩

/-- A state in the middle of a decode job, with a command pending. -/
def busy : State := State.holding [0x41] { job 5 [0x41, 0x40, 0x42] with rPos := 1, cmds := [⟨0x51, 0, 0⟩] }

theorem busy_inv : busy.Inv := by
  refine ⟨by decide +kernel, by decide +kernel, ⟨by decide +kernel, by decide +kernel⟩, ⟨by decide +kernel, by decide +kernel⟩,
    ⟨by decide +kernel, by decide +kernel⟩, ⟨?_, ?_⟩, fun _ => ?_⟩ <;> decide +kernel

/-- `InvariantIsKept` and `SourceIsReadOnly`. -/
theorem witness_InvariantIsKept : busy.Inv ∧ (∃ t, step busy = .next t ∧ (t.outLen = 2 : Bool) = true) ∧
    ∃ t, exec .tdStep busy = .next t ∧ (!t.fault) = true :=
  ⟨busy_inv, nextThen_next (by decide +kernel), nextThen_next (by decide +kernel)⟩

end Sys2Proof.Tests
end

section
/-! PROOFS. What an operation leaves unchanged, by composition: a predicate that the port of the stream keeps is kept by everything the decoder reads
through it, and each operation of the machine keeps the parameters, the commands to come and `SRC` (20_memory.md R61). -/

namespace Sys2Proof

/-! ## Predicates that an operation keeps -/

section Seq
variable {σ φ α β : Type} {p : σ → Prop}

/-- The state in which an operation completes or raises satisfies `p`; the model's own stop leaves no state. -/
def Res.All (p : σ → Prop) : Res σ φ α → Prop
  | .ok _ s => p s
  | .raised _ s => p s
  | .stuck _ => True

/-- An operation all of whose ends are known. -/
theorem Res.all_of_ends {r : Res σ φ α} (hok : ∀ a s, r = .ok a s → p s) (hraised : ∀ k s, r = .raised k s → p s) :
    r.All p := by
  cases r with
  | ok a s => exact hok a s rfl
  | raised k s => exact hraised k s rfl
  | stuck f => trivial

theorem Res.all_bind {r : Res σ φ α} {f : α → σ → Res σ φ β} (hr : r.All p) (hf : ∀ a s, p s → (f a s).All p) :
    (r.bind f).All p := by
  cases r with
  | ok a s => exact hf a s hr
  | raised k s => exact hr
  | stuck f => trivial

theorem Res.all_map {r : Res σ φ α} {f : α → β} (hr : r.All p) : (r.map f).All p :=
  Res.all_bind hr fun _ _ h => h

theorem Res.all_ite {c : Prop} [Decidable c] {r r' : Res σ φ α} (hr : r.All p) (hr' : r'.All p) :
    (if c then r else r').All p := by
  split
  · exact hr
  · exact hr'

/-- The port's three ways to the stream keep `p`. -/
structure Port.Keeps (P : Port σ φ) (p : σ → Prop) : Prop where
  bit : ∀ {s}, p s → (P.bit s).All p
  byte : ∀ {s}, p s → (P.byte s).All p
  one : ∀ {s}, p s → p (P.one s)

end Seq

/-! ## What the port keeps, the readers of fields and codes keep -/

section Readers
variable {σ φ : Type} {P : Port σ φ} {p : σ → Prop} {s : σ}

theorem readBitsInto_all (hP : P.Keeps p) {n : Nat} {v : Word} (h : p s) : (readBitsInto P n v s).All p := by
  induction n generalizing v s with
  | zero => exact h
  | succ n ih => exact Res.all_bind (hP.bit h) fun _ _ h => ih h

theorem readField_all (hP : P.Keeps p) {n : Nat} (h : p s) : (readField P n s).All p := readBitsInto_all hP h

theorem readWide_all (hP : P.Keeps p) {split : WideSplit} {n : Nat} (h : p s) : (readWide P split n s).All p := by
  cases split with
  | bitsThenByte =>
    exact Res.all_bind (readField_all hP h) fun _ _ h => Res.all_bind (hP.byte h) fun _ _ h => h

theorem fitting_all {cfg : Config} {v : Word} (h : p s) : (fitting cfg v s : Res σ φ Word).All p := Res.all_ite h h

theorem egZeros_all (hP : P.Keeps p) {left k : Nat} (h : p s) : (egZeros P left k s).All p := by
  induction left generalizing k s with
  | zero => exact h
  | succ left ih => exact Res.all_bind (hP.bit h) fun _ _ h => Res.all_ite h (ih h)

theorem egReadCode_all (hP : P.Keeps p) {cfg : Config} {limit : Nat} (h : p s) : (egReadCode P cfg limit s).All p := by
  refine Res.all_ite h (Res.all_bind (egZeros_all hP h) fun k _ h => ?_)
  cases k with
  | none => exact h
  | some k => exact Res.all_bind (readBitsInto_all hP h) fun _ _ h => Res.all_map (fitting_all h)

theorem igLoop_all (hP : P.Keeps p) {width n : Nat} {cont inverted : Bool} {sentinel value : Word} (h : p s) :
    (igLoop P width cont inverted sentinel n value s).All p := by
  induction n generalizing value s with
  | zero => exact h
  | succ n ih =>
    exact Res.all_bind (hP.bit h) fun _ _ h => Res.all_ite h <| Res.all_ite h <|
      Res.all_bind (hP.bit h) fun _ _ h => Res.all_ite h (ih h)

theorem igReadCode_all (hP : P.Keeps p) {cfg : Config} {sentinel : Word} {inverted backwards : Bool} (h : p s) :
    (igReadCode P cfg sentinel inverted backwards s).All p := igLoop_all hP h

theorem bbgOnes_all (hP : P.Keeps p) {left k : Nat} (h : p s) : (bbgOnes P left k s).All p := by
  induction left generalizing k s with
  | zero => exact h
  | succ left ih => exact Res.all_bind (hP.bit h) fun _ _ h => Res.all_ite (ih h) h

theorem bbgReadCode_all (hP : P.Keeps p) {cfg : Config} (h : p s) : (bbgReadCode P cfg s).All p := by
  refine Res.all_bind (bbgOnes_all hP h) fun k _ h => ?_
  cases k with
  | none => exact h
  | some k => exact Res.all_bind (readBitsInto_all hP h) fun _ _ h => Res.all_map (fitting_all h)

/-! ## … and so does the token decoder -/

theorem decodeMdk_all (hP : P.Keeps p) (h : p s) : (decodeMdk P s).All p :=
  Res.all_bind (hP.byte h) fun _ _ h => Res.all_ite h <| Res.all_ite h <| Res.all_bind (hP.byte h) fun _ _ h => h

theorem decodeLzf_all (hP : P.Keeps p) (h : p s) : (decodeLzf P s).All p :=
  Res.all_bind (hP.byte h) fun _ _ h => Res.all_ite h <| Res.all_ite h <| Res.all_ite
    (Res.all_bind (hP.byte h) fun _ _ h => Res.all_bind (hP.byte h) fun _ _ h => h)
    (Res.all_bind (hP.byte h) fun _ _ h => h)

theorem decodePlt_all (hP : P.Keeps p) {c : DecodeCtx} (h : p s) : (decodePlt P c s).All p := by
  refine Res.all_bind (hP.bit h) fun _ _ h => Res.all_ite (Res.all_bind (hP.byte h) fun _ _ h => h) ?_
  refine Res.all_bind (igReadCode_all hP h) fun g _ h => ?_
  cases g with
  | none => exact h
  | some g =>
    exact Res.all_bind (hP.byte h) fun _ _ h => Res.all_ite h (Res.all_bind (readField_all hP h) fun _ _ h => h)

theorem dan1Near_all (hP : P.Keeps p) {far : Bool} (h : p s) : (dan1Near P far s).All p :=
  Res.all_bind (hP.bit h) fun _ _ h => Res.all_ite
    (Res.all_bind (readField_all hP h) fun _ _ h => h) (Res.all_bind (readField_all hP h) fun _ _ h => h)

theorem dan1Mid_all (hP : P.Keeps p) {far : Bool} {len : Word} (h : p s) : (dan1Mid P far len s).All p :=
  Res.all_ite
    (Res.all_bind (hP.bit h) fun _ _ h => Res.all_ite (Res.all_bind (hP.byte h) fun _ _ h => h) (dan1Near_all hP h))
    (dan1Near_all hP h)

theorem dan1OffsetRead_all (hP : P.Keeps p) {cfg : Config} {len : Word} (h : p s) :
    (dan1OffsetRead P cfg len s).All p :=
  Res.all_ite
    (Res.all_bind (hP.bit h) fun _ _ h =>
      Res.all_ite (Res.all_bind (readWide_all hP h) fun _ _ h => h) (dan1Mid_all hP h))
    (dan1Mid_all hP h)

theorem decodeDan1_all (hP : P.Keeps p) {c : DecodeCtx} (h : p s) : (decodeDan1 P c s).All p := by
  refine Res.all_bind (hP.bit h) fun _ _ h => Res.all_ite (Res.all_bind (hP.byte h) fun _ _ h => h) ?_
  refine Res.all_bind (egReadCode_all hP h) fun g _ h => ?_
  cases g with
  | none => exact Res.all_bind (hP.bit h) fun _ _ h => Res.all_ite (Res.all_bind (hP.byte h) fun _ _ h => h) h
  | some g => exact Res.all_bind (dan1OffsetRead_all hP h) fun _ _ h => h

theorem subsetRead_all (hP : P.Keeps p) {left : Nat} (h : p s) : (subsetRead P left s).All p := by
  induction left generalizing s with
  | zero => exact Res.all_bind (hP.bit h) fun _ _ h => Res.all_ite h h
  | succ left ih => exact Res.all_bind (hP.bit h) fun _ _ h => Res.all_ite (ih (hP.one h)) h

theorem tierRead_all (hP : P.Keeps p) {codes : Dan3Prefix} {n : Nat} {bits : List Bool} (h : p s) :
    (tierRead P codes n bits s).All p := by
  induction n generalizing bits s with
  | zero => exact h
  | succ n ih =>
    refine Res.all_bind (hP.bit h) fun b _ h => ?_
    cases codes.tierOf (bits ++ [b]) with
    | none => exact ih h
    | some t => exact h

theorem dan3OffsetRead_all (hP : P.Keeps p) {c : DecodeCtx} (h : p s) : (dan3OffsetRead P c s).All p := by
  refine Res.all_bind (tierRead_all hP h) fun t _ h => ?_
  cases t with
  | a => exact Res.all_bind (readField_all hP h) fun _ _ h => h
  | b => exact Res.all_bind (hP.byte h) fun _ _ h => h
  | c => exact Res.all_bind (readWide_all hP h) fun _ _ h => h

theorem dan3Offset1Read_all (hP : P.Keeps p) (h : p s) : (dan3Offset1Read P s).All p :=
  Res.all_bind (hP.bit h) fun _ _ h => Res.all_ite (Res.all_bind (readField_all hP h) fun _ _ h => h) h

theorem decodeDan3_all (hP : P.Keeps p) {c : DecodeCtx} (h : p s) : (decodeDan3 P c s).All p := by
  refine Res.all_bind (hP.bit h) fun _ _ h => Res.all_ite (Res.all_bind (hP.byte h) fun _ _ h => h) ?_
  refine Res.all_bind (egReadCode_all hP h) fun g _ h => ?_
  cases g with
  | none => exact Res.all_bind (hP.bit h) fun _ _ h => Res.all_ite (Res.all_bind (hP.byte h) fun _ _ h => h) h
  | some g => exact Res.all_bind (Res.all_ite (dan3Offset1Read_all hP h) (dan3OffsetRead_all hP h)) fun _ _ h => h

theorem decodeZx7_all (hP : P.Keeps p) {c : DecodeCtx} (h : p s) : (decodeZx7 P c s).All p := by
  refine Res.all_bind (hP.bit h) fun _ _ h => Res.all_ite (Res.all_bind (hP.byte h) fun _ _ h => h) ?_
  refine Res.all_bind (egReadCode_all hP h) fun g _ h => ?_
  cases g with
  | none => exact Res.all_bind (hP.bit h) fun _ _ h => Res.all_ite h h
  | some g =>
    exact Res.all_bind (hP.byte h) fun _ _ h => Res.all_ite h (Res.all_bind (readField_all hP h) fun _ _ h => h)

theorem decodeZx0New_all (hP : P.Keeps p) {c : DecodeCtx} (h : p s) : (decodeZx0New P c s).All p := by
  refine Res.all_bind (igReadCode_all hP h) fun m _ h => ?_
  cases m with
  | none => exact h
  | some m => exact Res.all_ite h <| Res.all_ite h <| Res.all_bind (hP.byte h) fun _ _ h => h

theorem zx0LengthRead_all (hP : P.Keeps p) {c : DecodeCtx} (h : p s) : (zx0LengthRead P c s).All p := by
  refine Res.all_bind (igReadCode_all hP h) fun n _ h => ?_
  cases n with
  | none => exact h
  | some n => exact h

theorem decodeBbLen_all (hP : P.Keeps p) (h : p s) : (decodeBbLen P s).All p :=
  Res.all_bind (hP.byte h) fun _ _ h => Res.all_bind (hP.byte h) fun _ _ h =>
    Res.all_bind (hP.byte h) fun _ _ h => Res.all_bind (hP.byte h) fun _ _ h => h

theorem decodeBbGamma_all (hP : P.Keeps p) {c : DecodeCtx} {d : Byte} {hi : BitVec 4} (h : p s) :
    (decodeBbGamma P c d hi s).All p := by
  refine Res.all_bind (bbgReadCode_all hP h) fun g _ h => ?_
  cases g with
  | none => exact Res.all_ite h h
  | some g => exact h

theorem decodeBb_all (hP : P.Keeps p) {c : DecodeCtx} (h : p s) : (decodeBb P c s).All p :=
  Res.all_bind (hP.bit h) fun _ _ h => Res.all_ite (Res.all_bind (hP.byte h) fun _ _ h => h) <|
    Res.all_bind (hP.byte h) fun _ _ h => Res.all_ite (decodeBbGamma_all hP h)
      (Res.all_bind (readField_all hP h) fun _ _ h => decodeBbGamma_all hP h)

/-- Whatever element is fetched, the token decoder keeps what its port keeps. -/
theorem decodeElement_all (hP : P.Keeps p) {c : DecodeCtx} {e : Element} (h : p s) : (decodeElement P c e s).All p := by
  cases e with
  | mdkToken => exact decodeMdk_all hP h
  | lzfToken => exact decodeLzf_all hP h
  | pltQ => exact Res.all_bind (readField_all hP h) fun _ _ h => h
  | pltToken => exact decodePlt_all hP h
  | dan1Token => exact decodeDan1_all hP h
  | dan3Subset => exact Res.all_bind (subsetRead_all hP h) fun _ _ h => h
  | dan3Token => exact decodeDan3_all hP h
  | pltFirst | dan1First | dan3First | zx7First => exact Res.all_bind (hP.byte h) fun _ _ h => h
  | zx7Token => exact decodeZx7_all hP h
  | zx0Lits | zx0Rep => exact Res.all_bind (zx0LengthRead_all hP h) fun _ _ h => h
  | zx0New => exact decodeZx0New_all hP h
  | bbLen => exact decodeBbLen_all hP h
  | bbToken => exact decodeBb_all hP h

end Readers

namespace Machine

/-! ## The frame of R61 and R21 -/

/-- `t` has what the engine is given and may not change: the parameters, the commands to come, and `SRC`. -/
structure State.SameInputs (s t : State) : Prop where
  cfg : t.cfg = s.cfg
  cmds : t.cmds = s.cmds
  src : t.src = s.src

theorem State.SameInputs.refl (s : State) : s.SameInputs s := ⟨rfl, rfl, rfl⟩

/-! In this section `s₀` is the state an operation began in, and `s` the one it has reached. -/

section Operations
variable {s₀ s : State}

/-! ### The reader, the writer and `OUT` -/

theorem readBit_sameInputs (h : s₀.SameInputs s) : (readBit s).All s₀.SameInputs := by
  refine Res.all_of_ends (fun b t ht => ?_) (fun k t ht => ?_)
  · obtain ⟨_, _, rfl⟩ | ⟨_, _, _, rfl⟩ | ⟨_, _, _, _, rfl⟩ := readBit_ok ht
    all_goals exact ⟨h.cfg, h.cmds, h.src⟩
  · obtain ⟨_, rfl, _⟩ := readBit_raised ht
    exact h

theorem readByte_sameInputs (h : s₀.SameInputs s) : (readByte s).All s₀.SameInputs := by
  refine Res.all_of_ends (fun v t ht => ?_) (fun k t ht => ?_)
  · obtain ⟨_, _, rfl⟩ := readByte_ok ht
    exact ⟨h.cfg, h.cmds, h.src⟩
  · obtain ⟨_, rfl, _⟩ := readByte_raised ht
    exact h

theorem statePort_keeps_sameInputs (s₀ : State) : statePort.Keeps s₀.SameInputs :=
  ⟨readBit_sameInputs, readByte_sameInputs, fun h => ⟨h.cfg, h.cmds, h.src⟩⟩

theorem putByte_sameInputs {v : Byte} (h : s₀.SameInputs s) : (putByte v s).All s₀.SameInputs :=
  Res.all_ite h ⟨h.cfg, h.cmds, h.src⟩

theorem backfill_sameInputs {a : Word} {bits : Byte} (h : s₀.SameInputs s) : (backfill a bits s).All s₀.SameInputs :=
  Res.all_ite ⟨h.cfg, h.cmds, h.src⟩ trivial

theorem writeOpenBit_sameInputs {b : Bool} (h : s₀.SameInputs s) : (writeOpenBit b s).All s₀.SameInputs :=
  Res.all_bind (Res.all_ite (backfill_sameInputs h) h) fun _ _ h => ⟨h.cfg, h.cmds, h.src⟩

theorem writeBit_sameInputs {b : Bool} (h : s₀.SameInputs s) : (writeBit b s).All s₀.SameInputs :=
  Res.all_ite
    (Res.all_bind (Res.all_ite (backfill_sameInputs h) h) fun _ _ h => ⟨h.cfg, h.cmds, h.src⟩)
    (Res.all_ite
      (Res.all_bind (putByte_sameInputs h) fun _ _ h => writeOpenBit_sameInputs ⟨h.cfg, h.cmds, h.src⟩)
      (writeOpenBit_sameInputs h))

theorem writeAll_sameInputs {bits : List Bool} (h : s₀.SameInputs s) : (writeAll bits s).All s₀.SameInputs := by
  induction bits generalizing s with
  | nil => exact h
  | cons b r ih => exact Res.all_bind (writeBit_sameInputs h) fun _ _ h => ih h

theorem putRun_sameInputs {v : Byte} {n : Nat} (h : s₀.SameInputs s) : (putRun v n s).All s₀.SameInputs := by
  induction n generalizing s with
  | zero => exact h
  | succ n ih => exact Res.all_bind (putByte_sameInputs h) fun _ _ h => ih h

theorem putLiteral_sameInputs (h : s₀.SameInputs s) : (putLiteral s).All s₀.SameInputs :=
  Res.all_bind (readByte_sameInputs h) fun _ _ h => putByte_sameInputs h

theorem literalRun_sameInputs {n : Nat} (h : s₀.SameInputs s) : (literalRun n s).All s₀.SameInputs := by
  induction n generalizing s with
  | zero => exact h
  | succ n ih => exact Res.all_bind (putLiteral_sameInputs h) fun _ _ h => ih h

theorem copyLoop_sameInputs {offset n : Nat} (h : s₀.SameInputs s) : (copyLoop offset n s).All s₀.SameInputs := by
  induction n generalizing s with
  | zero => exact h
  | succ n ih => exact Res.all_bind (putByte_sameInputs h) fun _ _ h => ih h

theorem copy_sameInputs {offset length : Nat} (h : s₀.SameInputs s) : (copy offset length s).All s₀.SameInputs :=
  Res.all_ite h (copyLoop_sameInputs h)

/-! ### The rules of the tokens -/

theorem setDState_sameInputs {d : DState} (h : s₀.SameInputs s) : (setDState d s).All s₀.SameInputs :=
  ⟨h.cfg, h.cmds, h.src⟩

theorem thenState_sameInputs {r : Res State Fault Unit} {d : DState} (h : r.All s₀.SameInputs) :
    (thenState r d).All s₀.SameInputs :=
  Res.all_bind h fun _ _ h => setDState_sameInputs h

theorem counted_sameInputs {r : Res State Fault Unit} (h : r.All s₀.SameInputs) : (counted r).All s₀.SameInputs :=
  Res.all_bind h fun _ _ h => ⟨h.cfg, h.cmds, h.src⟩

theorem zx0StateBit_sameInputs {other : DState} (h : s₀.SameInputs s) : (zx0StateBit other s).All s₀.SameInputs :=
  Res.all_bind (readBit_sameInputs h) fun _ _ h => setDState_sameInputs h

theorem zx0MatchLength_sameInputs (h : s₀.SameInputs s) : (zx0MatchLength s).All s₀.SameInputs := by
  refine Res.all_bind (igReadCode_all (statePort_keeps_sameInputs s₀) h) fun g _ h => ?_
  cases g with
  | none => exact h
  | some g => exact Res.all_ite h h

theorem zx0Match_sameInputs {msb : Word} {bo : Byte} (h : s₀.SameInputs s) : (zx0Match msb bo s).All s₀.SameInputs :=
  Res.all_bind (zx0MatchLength_sameInputs ⟨h.cfg, h.cmds, h.src⟩) fun _ _ h =>
    Res.all_bind (copy_sameInputs h) fun _ _ h => zx0StateBit_sameInputs h

theorem State.exchanges_sameInputs {n : Nat} (h : s₀.SameInputs s) : s₀.SameInputs (State.exchanges n s) := by
  induction n with
  | zero => exact h
  | succ n ih => exact ⟨ih.cfg, ih.cmds, ih.src⟩

theorem zx0End_sameInputs (h : s₀.SameInputs s) : (zx0End s).All s₀.SameInputs := by
  refine setDState_sameInputs ?_
  split
  · exact State.exchanges_sameInputs h
  · exact h

theorem runToken_sameInputs {i : Instr} (h : s₀.SameInputs s) : (runToken i s).All s₀.SameInputs := by
  cases i with
  | mdkRaw | lzfLrun | dan1Raw | dan3Raw => exact thenState_sameInputs (literalRun_sameInputs h)
  | mdkRle => exact thenState_sameInputs (putRun_sameInputs h)
  | pltFirst | pltLit | dan1First | dan1Lit | dan3First | dan3Lit | zx7First | zx7Lit | bbLit =>
    exact thenState_sameInputs (putByte_sameInputs h)
  | lzfShort | lzfLong | pltMatch | dan1Match | dan3Match | zx7Match | bbMatch =>
    exact thenState_sameInputs (copy_sameInputs h)
  | mdkEnd | lzfEnd | pltEnd | dan1End | dan3End | zx7End => exact setDState_sameInputs h
  | pltQ => exact Res.all_ite h ⟨h.cfg, h.cmds, h.src⟩
  | dan3Subset => exact ⟨h.cfg, h.cmds, h.src⟩
  | zx0Lits => exact Res.all_bind (literalRun_sameInputs h) fun _ _ h => zx0StateBit_sameInputs h
  | zx0Rep => exact Res.all_bind (copy_sameInputs h) fun _ _ h => zx0StateBit_sameInputs h
  | zx0Match => exact zx0Match_sameInputs h
  | zx0End => exact zx0End_sameInputs h
  | bbLen => exact Res.all_ite ⟨h.cfg, h.cmds, h.src⟩ ⟨h.cfg, h.cmds, h.src⟩
  | bbEnd => exact Res.all_ite h (setDState_sameInputs h)
  | _ => trivial

/-! ### The token decoder -/

theorem runElement_sameInputs {e : Element} (h : s₀.SameInputs s) : (runElement e s).All s₀.SameInputs :=
  Res.all_bind (decodeElement_all (statePort_keeps_sameInputs s₀) h) fun _ _ h => runToken_sameInputs h

theorem tokenBody_sameInputs (h : s₀.SameInputs s) : (tokenBody s).All s₀.SameInputs := by
  unfold tokenBody
  cases s.tokenElement with
  | ok e => exact runElement_sameInputs h
  | error f => trivial

theorem headerBody_sameInputs (h : s₀.SameInputs s) : (headerBody s).All s₀.SameInputs := by
  unfold headerBody
  cases s.jobCodec with
  | mdkRle | lzf | zx0 => exact tokenBody_sameInputs ⟨h.cfg, h.cmds, h.src⟩
  | pletter =>
    exact Res.all_bind (Res.all_ite ⟨h.cfg, h.cmds, h.src⟩ (runElement_sameInputs h)) fun _ _ h => runElement_sameInputs h
  | dan3 =>
    exact Res.all_bind (runElement_sameInputs ⟨h.cfg, h.cmds, h.src⟩) fun _ _ h => runElement_sameInputs h
  | dan1 | zx7 | bitBuster => exact runElement_sameInputs h

theorem tdStep_sameInputs (h : s₀.SameInputs s) : (tdStep s).All s₀.SameInputs := by
  unfold tdStep
  cases s.dState with
  | idle | done | fault => exact h
  | header => exact Res.all_ite (setDState_sameInputs h) (counted_sameInputs (headerBody_sameInputs h))
  | token | zx0Lit | zx0Last | zx0New => exact counted_sameInputs (tokenBody_sameInputs h)

theorem tdLoop_sameInputs {n : Nat} (h : s₀.SameInputs s) : (tdLoop n s).All s₀.SameInputs := by
  induction n generalizing s with
  | zero => trivial
  | succ n ih => exact Res.all_ite h (Res.all_bind (tdStep_sameInputs h) fun _ _ h => ih h)

theorem tdRun_sameInputs (h : s₀.SameInputs s) : (tdRun s).All s₀.SameInputs := Res.all_ite h (tdLoop_sameInputs h)

theorem State.clearFault_sameInputs (s : State) : s.SameInputs s.clearFault :=
  ⟨s.clearFault_cfg, s.clearFault_cmds, s.clearFault_src⟩

theorem tdStart_sameInputs (s : State) : (tdStart s).All s.SameInputs :=
  have h := s.clearFault_sameInputs
  Res.all_ite ⟨h.cfg, h.cmds, h.src⟩ ⟨h.cfg, h.cmds, h.src⟩

/-! ### The match scanner -/

theorem inMode_sameInputs {m : MsMode} {body : State → Res State Fault (List Word)} (h : s₀.SameInputs s)
    (hb : (body s).All s₀.SameInputs) : (inMode m body s).All s₀.SameInputs :=
  Res.all_ite hb h

theorem msInit_sameInputs (h : s₀.SameInputs s) : (msInit s).All s₀.SameInputs :=
  Res.all_ite h (Res.all_ite h ⟨h.cfg, h.cmds, h.src⟩)

theorem msInsert_sameInputs {i : Word} (h : s₀.SameInputs s) : (msInsert i s).All s₀.SameInputs :=
  Res.all_ite h (Res.all_ite trivial ⟨h.cfg, h.cmds, h.src⟩)

theorem msWalk_sameInputs {i : Word} (h : s₀.SameInputs s) : (msWalk i s).All s₀.SameInputs := by
  refine Res.all_ite h (Res.all_ite trivial ?_)
  split
  · trivial
  · exact h

theorem msLinear_sameInputs {i : Word} (h : s₀.SameInputs s) : (msLinear i s).All s₀.SameInputs := by
  refine Res.all_ite h ?_
  split
  · trivial
  · exact h

theorem State.stepRuns_sameInputs {pos n off : Nat} (h : s₀.SameInputs s) :
    s₀.SameInputs (State.stepRuns pos n off s) := by
  induction n generalizing off s with
  | zero => exact h
  | succ n ih => exact ih ⟨h.cfg, h.cmds, h.src⟩

theorem msStepRun_sameInputs (h : s₀.SameInputs s) : (msStepRun s).All s₀.SameInputs :=
  have ht : s₀.SameInputs (State.stepRuns s.sPos.toNat (min s.msMaxOff.toNat s.sPos.toNat) 1 s) :=
    State.stepRuns_sameInputs h
  Res.all_ite h (Res.all_ite trivial ⟨ht.cfg, ht.cmds, ht.src⟩)

/-! ### The host's port -/

theorem State.setReg_sameInputs (s : State) (n v : Word) : s.SameInputs (s.setReg n v) := by
  unfold State.setReg
  split
  all_goals exact ⟨rfl, rfl, rfl⟩

theorem unspecified_sameInputs (h : s₀.SameInputs s) : (unspecified s).All s₀.SameInputs := ⟨h.cfg, h.cmds, h.src⟩

/-! ### Transactions -/

theorem finish_sameInputs {r : Res State Fault (List Word)} {t : State} (ht : finish r = .next t)
    (h : r.All s₀.SameInputs) : s₀.SameInputs t := by
  cases r with
  | ok ws u =>
    obtain rfl : u.answered ws = t := by simpa using ht
    exact ⟨h.cfg, h.cmds, h.src⟩
  | raised k u =>
    obtain rfl : (u.raise k).answered [] = t := by simpa using ht
    exact ⟨h.cfg, h.cmds, h.src⟩
  | stuck f => simp at ht

theorem operation_sameInputs {body : State → Res State Fault (List Word)} {s t : State}
    (ht : operation body s = .next t) (h : (body s).All s.SameInputs) : s.SameInputs t := by
  cases hf : s.fault with
  | true =>
    rw [operation_faulted hf] at ht
    obtain rfl : s.answered [] = t := by simpa using ht
    exact ⟨rfl, rfl, rfl⟩
  | false =>
    rw [operation_runs hf] at ht
    exact finish_sameInputs ht h

theorem quietOperation_sameInputs {body : State → Res State Fault Unit} {s t : State}
    (ht : operation (quiet body) s = .next t) (h : (body s).All s.SameInputs) : s.SameInputs t :=
  operation_sameInputs ht (Res.all_bind h fun _ _ h => h)

end Operations

/-- A token issued by itself is its rule, counted or (the two header elements) not (43_decoder_common.md R211). -/
theorem exec_token {i : Instr} (h : i.isCommand = false) (s : State) :
    exec i s = tokenStep (runToken i) s ∨ exec i s = operation (quiet (runToken i)) s := by
  cases i with
  | pltQ | dan3Subset => exact .inr rfl
  | mdkRaw | mdkRle | mdkEnd | lzfLrun | lzfShort | lzfLong | lzfEnd | pltFirst | pltLit | pltMatch | pltEnd
  | dan1First | dan1Lit | dan1Match | dan1Raw | dan1End | dan3First | dan3Lit | dan3Match | dan3Raw | dan3End
  | zx7First | zx7Lit | zx7Match | zx7End | zx0Lits | zx0Rep | zx0Match | zx0End
  | bbLen | bbLit | bbMatch | bbEnd => exact .inl rfl
  | _ => cases h

theorem exec_token_sameInputs {i : Instr} {s t : State} (h : i.isCommand = false) (ht : exec i s = .next t) :
    s.SameInputs t := by
  have hbody := runToken_sameInputs (i := i) (State.SameInputs.refl s)
  obtain he | he := exec_token h s
  · exact quietOperation_sameInputs (he ▸ ht) (counted_sameInputs hbody)
  · exact quietOperation_sameInputs (he ▸ ht) hbody

/-- A command other than `RESET` and `SRC_WRITE` keeps the inputs. -/
theorem exec_command_sameInputs {i : Instr} {s t : State} (hc : i.isCommand = true) (ht : exec i s = .next t)
    (hreset : i ≠ .reset) (hsrc : ∀ a v, i ≠ .srcWrite a v) : s.SameInputs t := by
  have h := State.SameInputs.refl s
  have hP := statePort_keeps_sameInputs s
  cases i with simp only [exec] at ht
  | reset => exact absurd rfl hreset
  | srcWrite a v => exact absurd rfl (hsrc a v)
  | regRead => exact finish_sameInputs ht h
  | regWrite n v => exact finish_sameInputs ht (s.setReg_sameInputs n v)
  | abort => exact finish_sameInputs ht ⟨rfl, rfl, rfl⟩
  | outRead => exact finish_sameInputs ht (Res.all_ite h (unspecified_sameInputs h))
  | mlenRead offset =>
    refine finish_sameInputs ht ?_
    split
    · exact Res.all_ite h (unspecified_sameInputs h)
    · exact unspecified_sameInputs h
  | bwInit | brInit =>
    have hcf := s.clearFault_sameInputs
    exact finish_sameInputs ht ⟨hcf.cfg, hcf.cmds, hcf.src⟩
  | writeBit => exact quietOperation_sameInputs ht (writeBit_sameInputs h)
  | writeByte => exact quietOperation_sameInputs ht (putByte_sameInputs h)
  | writeBits | egWrite | igWrite | bbgWrite =>
    exact quietOperation_sameInputs ht (Res.all_ite h (writeAll_sameInputs h))
  | wSetBacktrack => exact quietOperation_sameInputs ht (Res.all_ite h ⟨rfl, rfl, rfl⟩)
  | flush => exact quietOperation_sameInputs ht h
  | readBit => exact operation_sameInputs ht (Res.all_map (readBit_sameInputs h))
  | readByte => exact operation_sameInputs ht (Res.all_map (readByte_sameInputs h))
  | readBits => exact operation_sameInputs ht (Res.all_ite h (Res.all_map (readField_all hP h)))
  | rSetBacktrack => exact quietOperation_sameInputs ht ⟨rfl, rfl, rfl⟩
  | egRead => exact operation_sameInputs ht (Res.all_map (egReadCode_all hP h))
  | igRead => exact operation_sameInputs ht (Res.all_map (igReadCode_all hP h))
  | bbgRead => exact operation_sameInputs ht (Res.all_map (bbgReadCode_all hP h))
  | gammaBits => exact operation_sameInputs ht (Res.all_ite h h)
  | msInit => exact finish_sameInputs ht (msInit_sameInputs s.clearFault_sameInputs)
  | msInsert => exact operation_sameInputs ht (inMode_sameInputs h (msInsert_sameInputs h))
  | msWalk => exact operation_sameInputs ht (inMode_sameInputs h (msWalk_sameInputs h))
  | msLinear => exact operation_sameInputs ht (inMode_sameInputs h (msLinear_sameInputs h))
  | msStepRun => exact operation_sameInputs ht (inMode_sameInputs h (msStepRun_sameInputs h))
  | tdStart => exact finish_sameInputs ht (tdStart_sameInputs s)
  | tdStep => exact quietOperation_sameInputs ht (tdStep_sameInputs h)
  | tdRun => exact quietOperation_sameInputs ht (tdRun_sameInputs h)
  | _ => cases hc

theorem exec_sameInputs {i : Instr} {s t : State} (ht : exec i s = .next t) (hreset : i ≠ .reset)
    (hsrc : ∀ a v, i ≠ .srcWrite a v) : s.SameInputs t := by
  cases hc : i.isCommand with
  | true => exact exec_command_sameInputs hc ht hreset hsrc
  | false => exact exec_token_sameInputs hc ht

/-- `RESET` gives back the parameters and the host's commands (R21, R440). -/
theorem exec_reset_cfg_cmds {s t : State} (ht : exec .reset s = .next t) : t.cfg = s.cfg ∧ t.cmds = s.cmds := by
  cases ht
  exact ⟨rfl, rfl⟩

theorem exec_srcWrite_cfg_cmds {a v : Word} {s t : State} (ht : exec (.srcWrite a v) s = .next t) :
    t.cfg = s.cfg ∧ t.cmds = s.cmds := by
  change execSrcWrite a v s = .next t at ht
  unfold execSrcWrite at ht
  split at ht
  · cases ht
    exact ⟨rfl, rfl⟩
  · cases ht

/-- Settles O60: the two instructions that write `SRC` are looked at by themselves, and every other one keeps the inputs. -/
theorem sourceIsReadOnly : Obligations.SourceIsReadOnly := by
  intro i s t ht
  by_cases hreset : i = .reset
  · subst hreset
    obtain ⟨hcfg, hcmds⟩ := exec_reset_cfg_cmds ht
    exact ⟨hcfg, hcmds, fun h => absurd rfl h⟩
  by_cases hsrc : ∃ a v, i = .srcWrite a v
  · obtain ⟨a, v, rfl⟩ := hsrc
    obtain ⟨hcfg, hcmds⟩ := exec_srcWrite_cfg_cmds ht
    exact ⟨hcfg, hcmds, fun _ h => absurd rfl (h a v)⟩
  have h := exec_sameInputs ht hreset fun a v hi => hsrc ⟨a, v, hi⟩
  exact ⟨h.cfg, h.cmds, fun _ _ => h.src⟩

end Machine

end Sys2Proof
end

section
/-! PROOFS. The tokens that append one byte, and the header elements `PLT.Q`, `DAN3.SUBSET` and `BB.LEN` (43_decoder_common.md R211, R214,
45_pletter.md R272, R275, 46_dan1_dan3.md R311, 49_bitbuster.md R381). -/

namespace Sys2Proof.Machine

variable {s : State}

/-! ## `PUT_BYTE`: when it ends which way -/

/-- With room, `PUT_BYTE` completes. -/
theorem putByte_appends_of_lt (v : Byte) (h : s.outLen < s.cfg.outCap) :
    ∃ t, putByte v s = .ok () t ∧ s.appends t 1 (fun _ => v) := by
  cases hp : putByte v s with
  | ok _ t => exact ⟨t, rfl, (putByte_ok hp).2⟩
  | raised k t =>
    have hfull := (putByte_raised hp).2.2
    bv_omega
  | stuck f => exact absurd hp putByte_not_stuck

/-- On a full buffer it raises. -/
theorem putByte_raised_of_le (v : Byte) (h : s.cfg.outCap ≤ s.outLen) : putByte v s = .raised .outputOverflow s := by
  cases hp : putByte v s with
  | ok _ t =>
    have hroom := (putByte_ok hp).1
    bv_omega
  | raised k t =>
    obtain ⟨rfl, rfl, -⟩ := putByte_raised hp
    rfl
  | stuck f => exact absurd hp putByte_not_stuck

/-! ## The tokens that append one byte -/

/-- What the nine literal tokens have in common: `PUT_BYTE` of their byte, and `D_TOKEN`. -/
def literalBody (v : Byte) (s : State) : Res State Fault Unit := thenState (putByte v s) .token

theorem literalBody_appends_of_lt (v : Byte) (h : s.outLen < s.cfg.outCap) :
    ∃ t, literalBody v s = thenState (.ok () t) .token ∧ s.appends t 1 (fun _ => v) := by
  obtain ⟨t, ht, happ⟩ := putByte_appends_of_lt v h
  exact ⟨t, congrArg (thenState · .token) ht, happ⟩

theorem literalBody_raised_of_le (v : Byte) (h : s.cfg.outCap ≤ s.outLen) : literalBody v s = .raised .outputOverflow s :=
  congrArg (thenState · .token) (putByte_raised_of_le v h)

theorem exec_literal {i : Instr} {v : Byte} (h : literalOf i = some v) (s : State) :
    exec i s = tokenStep (literalBody v) s := by
  cases i with
  | pltFirst w | pltLit w | dan1First w | dan1Lit w | dan3First w | dan3Lit w | zx7First w | zx7Lit w | bbLit w =>
    obtain rfl : w = v := Option.some.inj h
    rfl
  | _ => cases h

/-- Settles O46: all nine tokens are `literalBody`, which ends as `PUT_BYTE` does. -/
theorem literalTokens : Obligations.LiteralTokens := by
  intro i s v hi hf
  rw [exec_literal hi]
  constructor
  · intro hroom
    obtain ⟨t, hbody, happ⟩ := literalBody_appends_of_lt v hroom
    exact ⟨t, happ, tokenStep_ok hf hbody⟩
  · intro hfull
    exact tokenStep_raised hf (literalBody_raised_of_le v (BitVec.le_of_eq hfull.symm))

/-! ## The header elements -/

/-- An operation without result words whose body completes. -/
theorem quietOperation_ok {body : State → Res State Fault Unit} {t : State} (hf : s.fault = false)
    (h : body s = .ok () t) : operation (quiet body) s = .next (t.answered []) := by
  rw [operation_runs hf, quiet_of_ok h, finish_ok]

/-- One whose body raises. -/
theorem quietOperation_raised {body : State → Res State Fault Unit} {t : State} {k : ErrKind} (hf : s.fault = false)
    (h : body s = .raised k t) : operation (quiet body) s = finish (.raised k t) := by
  rw [operation_runs hf, quiet_of_raised h]

/-- `q = u + 1` is between 1 and 7 (R272). -/
theorem pltQ_ok {u : BitVec 3} (s : State) (h : u ≠ 7) :
    pltQ u s = .ok () { s with dQ := u + 1, dSentinel := s.cfg.fit s.cfg.pletterSentinel } := if_neg h

theorem pltQ_raised (s : State) : pltQ 7 s = .raised .invalidQValue s := if_pos rfl

/-- A declared length above `BB_MAXINPUT` (R381). -/
theorem bbLen_raised {n : Word} (h : s.bbMaxInput < n) :
    bbLen n s = .raised .invalidHeader { s with dHdrLen := s.cfg.fit n } := if_pos h

theorem bbLen_ok {n : Word} (h : n ≤ s.bbMaxInput) :
    bbLen n s = thenState (.ok () { s with dHdrLen := s.cfg.fit n }) (if n = 0 then .done else .token) :=
  if_neg (BitVec.not_lt.mpr h)

theorem bbLen_zero (s : State) : bbLen 0 s = thenState (.ok () { s with dHdrLen := 0 }) .done := by
  rw [bbLen_ok (BitVec.le_def.mpr (Nat.zero_le _)), Config.fit_zero, if_pos rfl]

/-- Settles O49: one clause for each way a header element ends; the two elements that are the first part of a header step are not
counted. -/
theorem headerTokens : Obligations.HeaderTokens := by
  intro s hf
  refine ⟨fun u hu => ?q, ?noQ, fun n => ?subset, fun n => ⟨fun hlong => ?tooLong, fun hn hle => ?length, fun hn => ?empty⟩⟩
  case q => exact quietOperation_ok hf (pltQ_ok s hu)
  case noQ => exact quietOperation_raised hf (pltQ_raised s)
  case subset => exact quietOperation_ok (body := dan3Subset n) hf rfl
  case tooLong => exact tokenStep_raised hf (bbLen_raised hlong)
  case length =>
    have hbody := bbLen_ok hle
    rw [if_neg hn] at hbody
    exact tokenStep_ok hf hbody
  case empty =>
    subst hn
    exact tokenStep_ok hf (bbLen_zero s)

end Sys2Proof.Machine
end

section
/-! PROOFS. Taking a fault, the fault state, and the ways out of it (60_exceptions.md R404, R406, R407, R412). -/

namespace Sys2Proof.Machine

/-! ## Taking a fault -/

/-- `ERR` holds the code of R400. -/
theorem errCode_eq (k : ErrKind) : errCode k = BitVec.ofNat 4 (faultCode k) := by
  cases k <;> rfl

@[simp] theorem State.raise_doneFlag (k : ErrKind) (s : State) : (s.raise k).doneFlag = false := rfl

/-- `STATUS` after a fault: `DSTATE` 7, `DONE` 0, `FAULT` 1, and the kind in `ERR` (10_state.md R35). -/
theorem State.raise_status (k : ErrKind) (s : State) :
    (s.raise k).status = BitVec.ofNat 32 (256 * faultCode k + 0x17) := by
  simp only [State.status, State.raise_doneFlag, State.raise_err, State.raise_fault, State.raise_dState]
  cases k <;> decide

/-- Settles O5: the registers by `errCode_eq`, the response by `State.raise_status`. -/
theorem raiseEffect : Obligations.RaiseEffect := by
  intro k s
  rw [finish_raised, State.answered, State.raise_status, State.raise, errCode_eq]

/-! ## The fault state -/

/-- A command that R406 does not name is refused. -/
theorem exec_faulted {i : Instr} {s : State} (hf : s.fault = true) (hc : i.isCommand = true)
    (ha : allowedInFault i = false) : exec i s = .next (s.answered []) := by
  cases i with
  | writeBit | writeByte | writeBits | wSetBacktrack | flush | readBit | readByte | readBits | rSetBacktrack
  | egWrite | egRead | igWrite | igRead | bbgWrite | bbgRead | gammaBits
  | msInsert | msWalk | msLinear | msStepRun | tdStep | tdRun => exact if_pos hf
  | reset | abort | bwInit | brInit | msInit | tdStart | regRead | regWrite | srcWrite | outRead | mlenRead => cases ha
  | _ => cases hc

/-- An `OP` outside the table is refused too. -/
theorem step_undefined_faulted {s : State} {c : Command} {rest : List Command} {k : ErrKind} (hf : s.fault = true)
    (hs : s.cmds = c :: rest) (hd : decodeCommand c = .error k) :
    step s = .next (State.answered [] { s with cmds := rest }) := by
  have hrefused := operation_faulted (body := fun s => .raised k s) (s := { s with cmds := rest }) hf
  simpa only [step, hs, transact, hd] using hrefused

/-- Settles O6: every command R406 does not name is an `operation`, and so is the fault of an undefined `OP`. -/
theorem faultIsSticky : Obligations.FaultIsSticky :=
  ⟨fun _ _ => exec_faulted, fun _ _ _ _ => step_undefined_faulted⟩

/-! ## The ways out -/

/-- `CLEAR_FAULT` after `CLEAR_FAULT` changes nothing. -/
@[simp] theorem State.clearFault_clearFault (s : State) : s.clearFault.clearFault = s.clearFault := by
  cases hf : s.fault with
  | true => rw [State.clearFault_of_fault hf]; rfl
  | false => rw [State.clearFault_of_not_fault hf]; exact State.clearFault_of_not_fault hf

/-- The four operations that begin with `CLEAR_FAULT` cannot tell that it has been done before. -/
theorem exec_clearFault {i : Instr} (hi : i ∈ [Instr.bwInit, .brInit, .msInit, .tdStart]) (s : State) :
    exec i s = exec i s.clearFault := by
  simp only [List.mem_cons, List.not_mem_nil, or_false] at hi
  obtain rfl | rfl | rfl | rfl := hi
  · simp [exec, execBwInit]
  · simp [exec, execBrInit]
  · simp [exec, execMsInit]
  · simp [exec, execTdStart, tdStart]

@[simp] theorem State.setReg_fault (s : State) (n v : Word) : (s.setReg n v).fault = s.fault := by
  unfold State.setReg
  split
  all_goals rfl

/-- A `raise` sets `FAULT`, so a transaction whose body keeps it set does not clear it. -/
theorem finish_keeps_fault {r : Res State Fault (List Word)} {t : State} (ht : finish r = .next t)
    (h : r.All (·.fault = true)) : t.fault = true := by
  cases r with
  | ok ws u => cases ht; exact h
  | raised k u => cases ht; rfl
  | stuck f => cases ht

/-- The host's accesses to registers and buffers are no way out. -/
theorem exec_access_keeps_fault {i : Instr} {s t : State} (hf : s.fault = true) (ha : allowedInFault i = true)
    (hl : leavesFault i = false) (ht : exec i s = .next t) : t.fault = true := by
  cases i with simp only [exec] at ht
  | regRead => exact finish_keeps_fault ht hf
  | regWrite n v => exact finish_keeps_fault ht ((s.setReg_fault n v).trans hf)
  | srcWrite => exact finish_keeps_fault ht (Res.all_ite hf trivial)
  | outRead => exact finish_keeps_fault ht (Res.all_ite hf hf)
  | mlenRead =>
    refine finish_keeps_fault ht ?_
    split
    · exact Res.all_ite hf hf
    · exact hf
  | reset | abort | bwInit | brInit | msInit | tdStart => cases hl
  | _ => cases ha

/-- Settles O7: a command that leaves the fault state is not refused, and is no access of the host, so it is one of the six. -/
theorem leavingTheFaultState : Obligations.LeavingTheFaultState := by
  refine ⟨fun s hf => ?clears, fun _ => State.clearFault_of_not_fault, fun s i hi => exec_clearFault hi s,
    fun i s t hc hf ht hclear => ?only⟩
  case clears =>
    refine ⟨.void, .void, .void, State.clearFault_of_fault hf, fun a => ⟨?_, ?_, ?_⟩⟩
    all_goals exact Table.read_void a
  case only =>
    by_contra hl
    rw [Bool.not_eq_true] at hl
    cases ha : allowedInFault i with
    | true => simp [exec_access_keeps_fault hf ha hl ht] at hclear
    | false =>
      obtain rfl : s.answered [] = t := by simpa [exec_faulted hf hc ha] using ht
      simp [hf] at hclear

@[simp] theorem State.aborted_doneFlag (s : State) : s.aborted.doneFlag = false := rfl

@[simp] theorem State.aborted_status (s : State) : s.aborted.status = 0 := by
  simp only [State.status, State.aborted_doneFlag, State.aborted_err, State.aborted_fault, State.aborted_dState]
  decide

/-- Settles O8: `ABORT` is `State.aborted`, after which `STATUS` reads 0. -/
theorem abortEffect : Obligations.AbortEffect := by
  intro s
  refine ⟨.void, .void, .void, ?_, fun a => ⟨?_, ?_, ?_⟩⟩
  · change Host.Outcome.next (s.aborted.answered []) = _
    rw [State.answered, State.aborted_status]
    rfl
  all_goals exact Table.read_void a

end Sys2Proof.Machine
end

section
/-! PROOFS. Which kinds an operation raises (60_exceptions.md R403): a rule for each way operations are composed, the kinds of each shared
operation, of each element of a stream, and of each command. -/

namespace Sys2Proof

section Seq
variable {σ φ α β : Type} {ks ks' : List ErrKind} {p : α → σ → Prop} {q : β → σ → Prop}

/-- The operation raises one of the kinds `ks`, or completes with a value and a state that satisfy `p`; the model's own stop leaves neither. -/
def Res.Ends (ks : List ErrKind) (p : α → σ → Prop) : Res σ φ α → Prop
  | .ok a s => p a s
  | .raised k _ => k ∈ ks
  | .stuck _ => True

@[simp] theorem Res.ends_raised {k : ErrKind} {s : σ} : (Res.raised k s : Res σ φ α).Ends ks p ↔ k ∈ ks := Iff.rfl

/-- An operation all of whose ends are known. -/
theorem Res.ends_of_ends {r : Res σ φ α} (hok : ∀ a s, r = .ok a s → p a s) (hraised : ∀ k s, r = .raised k s → k ∈ ks) :
    r.Ends ks p := by
  cases r with
  | ok a s => exact hok a s rfl
  | raised k s => exact hraised k s rfl
  | stuck f => trivial

theorem Res.ends_mono {r : Res σ φ α} (hr : r.Ends ks p) (hks : ks ⊆ ks') : r.Ends ks' p := by
  cases r with
  | ok a s => exact hr
  | raised k s => exact hks hr
  | stuck f => trivial

theorem Res.ends_bind {r : Res σ φ α} {f : α → σ → Res σ φ β} (hr : r.Ends ks p) (hf : ∀ a s, p a s → (f a s).Ends ks q) :
    (r.bind f).Ends ks q := by
  cases r with
  | ok a s => exact hf a s hr
  | raised k s => exact hr
  | stuck f => trivial

theorem Res.ends_ite {c : Prop} [Decidable c] {r r' : Res σ φ α} (hr : c → r.Ends ks p) (hr' : ¬ c → r'.Ends ks p) :
    (if c then r else r').Ends ks p := by
  split
  · exact hr ‹_›
  · exact hr' ‹_›

end Seq

/-- A bit shifted in doubles a value that leaves room for it. -/
theorem two_mul_le_shiftIn {v : Word} (b : Bool) (hv : v.toNat < 2 ^ 31) : 2 * v.toNat ≤ (shiftIn v b).toNat := by
  have hshift : (v <<< 1).toNat = 2 * v.toNat := by
    rw [BitVec.toNat_shiftLeft, Nat.shiftLeft_eq, Nat.mod_eq_of_lt (by omega)]
    omega
  rw [shiftIn, BitVec.toNat_or, hshift]
  exact Nat.left_le_or

namespace Machine

/-- An operation has completed with any value, and `FAULT = 0`. -/
def NoFault {α : Type} (_ : α) (t : State) : Prop := t.fault = false

/-- The decoder has fetched an instruction of the element `e`, and `FAULT = 0`. -/
def Fetched (e : Element) (i : Instr) (t : State) : Prop := elementOf i = some e ∧ t.fault = false

section Operations
variable {s : State} {ks : List ErrKind}

/-! ## The reader and the gamma codes -/

theorem readBit_ends (hT : .truncatedStream ∈ ks) (hs : s.fault = false) : (readBit s).Ends ks NoFault := by
  refine Res.ends_of_ends (fun b t ht => ?_) (fun k t ht => (readBit_raised ht).1 ▸ hT)
  obtain ⟨_, _, rfl⟩ | ⟨_, _, _, rfl⟩ | ⟨_, _, _, _, rfl⟩ := readBit_ok ht
  all_goals exact hs

theorem readByte_ends (hT : .truncatedStream ∈ ks) (hs : s.fault = false) : (readByte s).Ends ks NoFault := by
  refine Res.ends_of_ends (fun v t ht => ?_) (fun k t ht => (readByte_raised ht).1 ▸ hT)
  obtain ⟨_, _, rfl⟩ := readByte_ok ht
  exact hs

theorem readBitsInto_ends {n : Nat} {v : Word} (hT : .truncatedStream ∈ ks) (hs : s.fault = false) :
    (readBitsInto statePort n v s).Ends ks NoFault := by
  induction n generalizing v s with
  | zero => exact hs
  | succ n ih => exact Res.ends_bind (readBit_ends hT hs) fun _ _ hs => ih hs

theorem readField_ends {n : Nat} (hT : .truncatedStream ∈ ks) (hs : s.fault = false) :
    (readField statePort n s).Ends ks NoFault := readBitsInto_ends hT hs

theorem readWide_ends {split : WideSplit} {n : Nat} (hT : .truncatedStream ∈ ks) (hs : s.fault = false) :
    (readWide statePort split n s).Ends ks NoFault := by
  cases split with
  | bitsThenByte =>
    exact Res.ends_bind (readField_ends hT hs) fun _ _ hs => Res.ends_bind (readByte_ends hT hs) fun _ _ hs => hs

/-- Every word has a width of 32 bits. -/
theorem fitting_ends {cfg : Config} {v : Word} (hM : cfg.valBits < 32 → .malformedToken ∈ ks) (hs : s.fault = false) :
    (fitting cfg v s : Res State Fault Word).Ends ks NoFault := by
  refine Res.ends_ite (fun hv => hM ?_) (fun _ => hs)
  by_contra hw
  have hv32 := v.isLt
  rw [Config.valueBits, Nat.min_eq_right (Nat.not_lt.mp hw)] at hv
  omega

theorem egZeros_ends {left k : Nat} (hT : .truncatedStream ∈ ks) (hs : s.fault = false) :
    (egZeros statePort left k s).Ends ks NoFault := by
  induction left generalizing k s with
  | zero => exact hs
  | succ left ih => exact Res.ends_bind (readBit_ends hT hs) fun _ _ hs => Res.ends_ite (fun _ => hs) (fun _ => ih hs)

/-- `EG_READ` raises `MalformedToken` for a limit above 32, or a value too wide (41_gamma.md R153, R169). -/
theorem egReadCode_ends {cfg : Config} {limit : Nat} (hT : .truncatedStream ∈ ks)
    (hM : cfg.valBits < 32 ∨ 32 < limit → .malformedToken ∈ ks) (hs : s.fault = false) :
    (egReadCode statePort cfg limit s).Ends ks NoFault := by
  refine Res.ends_ite (fun hlimit => hM (.inr hlimit)) fun _ => Res.ends_bind (egZeros_ends hT hs) fun k _ hs => ?_
  cases k with
  | none => exact hs
  | some k =>
    exact Res.ends_bind (readBitsInto_ends hT hs) fun _ _ hs =>
      Res.ends_bind (fitting_ends (fun hw => hM (.inl hw)) hs) fun _ _ hs => hs

/-- What keeps `IG_READ` from raising `MalformedToken` with `n` rounds left: the value doubles with each, and reaches a sentinel within
`2^31` before its 32 bits or the rounds run out. -/
def igBounded (width : Nat) (sentinel : Word) (n : Nat) (value : Word) : Prop :=
  width = 32 ∧ sentinel ≠ 0 ∧ sentinel.toNat ≤ 2 ^ 31 ∧ value.toNat < 2 ^ 31 ∧ 2 ^ 32 ≤ value.toNat * 2 ^ n

theorem igBounded_shiftIn {width n : Nat} {sentinel value : Word} {b : Bool} (h : igBounded width sentinel (n + 1) value)
    (hbelow : ¬ (sentinel ≠ 0 ∧ sentinel ≤ shiftIn value b)) : igBounded width sentinel n (shiftIn value b) := by
  obtain ⟨hwidth, hpos, hsentinel, hvalue, hrounds⟩ := h
  have hlt : (shiftIn value b).toNat < sentinel.toNat := by
    rw [not_and, BitVec.not_le] at hbelow
    exact hbelow hpos
  refine ⟨hwidth, hpos, hsentinel, by omega, ?_⟩
  calc 2 ^ 32 ≤ value.toNat * 2 ^ (n + 1) := hrounds
    _ = 2 * value.toNat * 2 ^ n := by ring
    _ ≤ (shiftIn value b).toNat * 2 ^ n := Nat.mul_le_mul_right _ (two_mul_le_shiftIn b hvalue)

theorem igLoop_ends {width n : Nat} {cont inverted : Bool} {sentinel value : Word} (hT : .truncatedStream ∈ ks)
    (hM : .malformedToken ∈ ks ∨ igBounded width sentinel n value) (hs : s.fault = false) :
    (igLoop statePort width cont inverted sentinel n value s).Ends ks NoFault := by
  induction n generalizing value s with
  | zero =>
    obtain hM | ⟨-, -, -, hvalue, hrounds⟩ := hM
    · exact hM
    · omega
  | succ n ih =>
    refine Res.ends_bind (readBit_ends hT hs) fun _ _ hs => Res.ends_ite (fun _ => hs) fun _ => ?_
    refine Res.ends_ite (fun hwide => ?_) fun _ => ?_
    · obtain hM | ⟨hwidth, -, -, hvalue, -⟩ := hM
      · exact hM
      · subst hwidth; omega
    · refine Res.ends_bind (readBit_ends hT hs) fun _ _ hs => Res.ends_ite (fun _ => hs) fun hbelow => ih ?_ hs
      exact hM.imp_right fun h => igBounded_shiftIn h hbelow

/-- The parameters with which `IG_READ` can raise `MalformedToken`: a width below 32, no sentinel, or one above `2^31`
(41_gamma.md R160, R169). -/
def igUnbounded (cfg : Config) (sentinel : Word) : Bool := cfg.valBits < 32 ∨ sentinel = 0 ∨ 0x80000000 < sentinel

theorem igReadCode_ends {cfg : Config} {sentinel : Word} {inverted backwards : Bool} (hT : .truncatedStream ∈ ks)
    (hM : igUnbounded cfg sentinel = true → .malformedToken ∈ ks) (hs : s.fault = false) :
    (igReadCode statePort cfg sentinel inverted backwards s).Ends ks NoFault := by
  refine igLoop_ends hT ?_ hs
  cases h : igUnbounded cfg sentinel with
  | true => exact .inl (hM h)
  | false =>
    obtain ⟨hwidth, hpos, hsentinel⟩ : ¬ cfg.valBits < 32 ∧ ¬ sentinel = 0 ∧ ¬ 0x80000000 < sentinel := by
      simpa only [igUnbounded, decide_eq_false_iff_not, not_or] using h
    exact .inr ⟨Nat.min_eq_right (Nat.not_lt.mp hwidth), hpos, by bv_omega, by decide, by decide⟩

theorem bbgOnes_ends {left k : Nat} (hT : .truncatedStream ∈ ks) (hs : s.fault = false) :
    (bbgOnes statePort left k s).Ends ks NoFault := by
  induction left generalizing k s with
  | zero => exact hs
  | succ left ih => exact Res.ends_bind (readBit_ends hT hs) fun _ _ hs => Res.ends_ite (fun _ => ih hs) (fun _ => hs)

theorem bbgReadCode_ends {cfg : Config} (hT : .truncatedStream ∈ ks) (hM : cfg.valBits < 32 → .malformedToken ∈ ks)
    (hs : s.fault = false) : (bbgReadCode statePort cfg s).Ends ks NoFault := by
  refine Res.ends_bind (bbgOnes_ends hT hs) fun k _ hs => ?_
  cases k with
  | none => exact hs
  | some k =>
    exact Res.ends_bind (readBitsInto_ends hT hs) fun _ _ hs =>
      Res.ends_bind (fitting_ends hM hs) fun _ _ hs => hs

/-! ## The elements of a stream, fetched -/

theorem decodeMdk_ends (hT : .truncatedStream ∈ ks) (hs : s.fault = false) :
    (decodeMdk statePort s).Ends ks (Fetched .mdkToken) :=
  Res.ends_bind (readByte_ends hT hs) fun _ _ hs => Res.ends_ite (fun _ => ⟨rfl, hs⟩) fun _ =>
    Res.ends_ite (fun _ => ⟨rfl, hs⟩) fun _ => Res.ends_bind (readByte_ends hT hs) fun _ _ hs => ⟨rfl, hs⟩

theorem decodeLzf_ends (hT : .truncatedStream ∈ ks) (hs : s.fault = false) :
    (decodeLzf statePort s).Ends ks (Fetched .lzfToken) := by
  refine Res.ends_bind (readByte_ends hT hs) fun _ _ hs => Res.ends_ite (fun _ => ⟨rfl, hs⟩) fun _ =>
    Res.ends_ite (fun _ => ⟨rfl, hs⟩) fun _ => Res.ends_ite (fun _ => ?long) (fun _ => ?short)
  case long =>
    exact Res.ends_bind (readByte_ends hT hs) fun _ _ hs => Res.ends_bind (readByte_ends hT hs) fun _ _ hs => ⟨rfl, hs⟩
  case short => exact Res.ends_bind (readByte_ends hT hs) fun _ _ hs => ⟨rfl, hs⟩

theorem decodePlt_ends {c : DecodeCtx} (hT : .truncatedStream ∈ ks)
    (hM : igUnbounded c.cfg c.sentinel = true → .malformedToken ∈ ks) (hs : s.fault = false) :
    (decodePlt statePort c s).Ends ks (Fetched .pltToken) := by
  refine Res.ends_bind (readBit_ends hT hs) fun _ _ hs => Res.ends_ite
    (fun _ => Res.ends_bind (readByte_ends hT hs) fun _ _ hs => ⟨rfl, hs⟩) fun _ => ?_
  refine Res.ends_bind (igReadCode_ends hT hM hs) fun g _ hs => ?_
  cases g with
  | none => exact ⟨rfl, hs⟩
  | some g =>
    exact Res.ends_bind (readByte_ends hT hs) fun _ _ hs => Res.ends_ite (fun _ => ⟨rfl, hs⟩) fun _ =>
      Res.ends_bind (readField_ends hT hs) fun _ _ hs => ⟨rfl, hs⟩

theorem dan1Near_ends {far : Bool} (hT : .truncatedStream ∈ ks) (hs : s.fault = false) :
    (dan1Near statePort far s).Ends ks NoFault :=
  Res.ends_bind (readBit_ends hT hs) fun _ _ hs => Res.ends_ite
    (fun _ => Res.ends_bind (readField_ends hT hs) fun _ _ hs => hs)
    (fun _ => Res.ends_bind (readField_ends hT hs) fun _ _ hs => hs)

theorem dan1Mid_ends {far : Bool} {len : Word} (hT : .truncatedStream ∈ ks) (hs : s.fault = false) :
    (dan1Mid statePort far len s).Ends ks NoFault :=
  Res.ends_ite
    (fun _ => Res.ends_bind (readBit_ends hT hs) fun _ _ hs => Res.ends_ite
      (fun _ => Res.ends_bind (readByte_ends hT hs) fun _ _ hs => hs) (fun _ => dan1Near_ends hT hs))
    (fun _ => dan1Near_ends hT hs)

theorem dan1OffsetRead_ends {cfg : Config} {len : Word} (hT : .truncatedStream ∈ ks) (hs : s.fault = false) :
    (dan1OffsetRead statePort cfg len s).Ends ks NoFault :=
  Res.ends_ite
    (fun _ => Res.ends_bind (readBit_ends hT hs) fun _ _ hs => Res.ends_ite
      (fun _ => Res.ends_bind (readWide_ends hT hs) fun _ _ hs => hs) (fun _ => dan1Mid_ends hT hs))
    (fun _ => dan1Mid_ends hT hs)

theorem decodeDan1_ends {c : DecodeCtx} (hT : .truncatedStream ∈ ks) (hM : c.cfg.valBits < 32 → .malformedToken ∈ ks)
    (hs : s.fault = false) : (decodeDan1 statePort c s).Ends ks (Fetched .dan1Token) := by
  refine Res.ends_bind (readBit_ends hT hs) fun _ _ hs => Res.ends_ite
    (fun _ => Res.ends_bind (readByte_ends hT hs) fun _ _ hs => ⟨rfl, hs⟩) fun _ => ?_
  have hlimit : ¬ 32 < Params.zeroLimit16 := by decide
  refine Res.ends_bind (egReadCode_ends hT (fun h => hM (h.resolve_right hlimit)) hs) fun g _ hs => ?_
  cases g with
  | none =>
    exact Res.ends_bind (readBit_ends hT hs) fun _ _ hs => Res.ends_ite
      (fun _ => Res.ends_bind (readByte_ends hT hs) fun _ _ hs => ⟨rfl, hs⟩) (fun _ => ⟨rfl, hs⟩)
  | some g => exact Res.ends_bind (dan1OffsetRead_ends hT hs) fun _ _ hs => ⟨rfl, hs⟩

theorem subsetRead_ends {left : Nat} (hT : .truncatedStream ∈ ks) (hH : .invalidHeader ∈ ks) (hs : s.fault = false) :
    (subsetRead statePort left s).Ends ks NoFault := by
  induction left generalizing s with
  | zero => exact Res.ends_bind (readBit_ends hT hs) fun _ _ hs => Res.ends_ite (fun _ => hH) (fun _ => hs)
  | succ left ih =>
    exact Res.ends_bind (readBit_ends hT hs) fun _ t hs => Res.ends_ite
      (fun _ => ih (s := { t with dSubset := t.dSubset + 1 }) hs) (fun _ => hs)

theorem tierRead_ends {codes : Dan3Prefix} {n : Nat} {bits : List Bool} (hT : .truncatedStream ∈ ks)
    (hM : .malformedToken ∈ ks) (hs : s.fault = false) : (tierRead statePort codes n bits s).Ends ks NoFault := by
  induction n generalizing bits s with
  | zero => exact hM
  | succ n ih =>
    refine Res.ends_bind (readBit_ends hT hs) fun b _ hs => ?_
    cases codes.tierOf (bits ++ [b]) with
    | none => exact ih hs
    | some t => exact hs

/-- The default codes 0, 10 and 11 leave no bits without meaning (46_dan1_dan3.md R316). -/
theorem tierRead_standard_ends (hT : .truncatedStream ∈ ks) (hs : s.fault = false) :
    (tierRead statePort Config.standard.dan3Prefix Config.standard.dan3Prefix.maxLen [] s).Ends ks NoFault := by
  refine Res.ends_bind (readBit_ends hT hs) fun b _ hs => ?_
  cases b with
  | false => exact hs
  | true =>
    refine Res.ends_bind (readBit_ends hT hs) fun b _ hs => ?_
    cases b with
    | false => exact hs
    | true => exact hs

theorem dan3OffsetRead_ends {c : DecodeCtx} (hT : .truncatedStream ∈ ks)
    (hM : c.cfg.dan3Prefix ≠ Config.standard.dan3Prefix → .malformedToken ∈ ks) (hs : s.fault = false) :
    (dan3OffsetRead statePort c s).Ends ks NoFault := by
  have htier : (tierRead statePort c.cfg.dan3Prefix c.cfg.dan3Prefix.maxLen [] s).Ends ks NoFault := by
    by_cases h : c.cfg.dan3Prefix = Config.standard.dan3Prefix
    · rw [h]
      exact tierRead_standard_ends hT hs
    · exact tierRead_ends hT (hM h) hs
  refine Res.ends_bind htier fun t _ hs => ?_
  cases t with
  | a => exact Res.ends_bind (readField_ends hT hs) fun _ _ hs => hs
  | b => exact Res.ends_bind (readByte_ends hT hs) fun _ _ hs => hs
  | c => exact Res.ends_bind (readWide_ends hT hs) fun _ _ hs => hs

theorem dan3Offset1Read_ends (hT : .truncatedStream ∈ ks) (hs : s.fault = false) :
    (dan3Offset1Read statePort s).Ends ks NoFault :=
  Res.ends_bind (readBit_ends hT hs) fun _ _ hs => Res.ends_ite
    (fun _ => Res.ends_bind (readField_ends hT hs) fun _ _ hs => hs) (fun _ => hs)

theorem decodeDan3_ends {c : DecodeCtx} (hT : .truncatedStream ∈ ks)
    (hEg : c.cfg.valBits < 32 ∨ 32 < c.cfg.dan3ZeroLimit → .malformedToken ∈ ks)
    (hTier : c.cfg.dan3Prefix ≠ Config.standard.dan3Prefix → .malformedToken ∈ ks) (hs : s.fault = false) :
    (decodeDan3 statePort c s).Ends ks (Fetched .dan3Token) := by
  refine Res.ends_bind (readBit_ends hT hs) fun _ _ hs => Res.ends_ite
    (fun _ => Res.ends_bind (readByte_ends hT hs) fun _ _ hs => ⟨rfl, hs⟩) fun _ => ?_
  refine Res.ends_bind (egReadCode_ends hT hEg hs) fun g _ hs => ?_
  cases g with
  | none =>
    exact Res.ends_bind (readBit_ends hT hs) fun _ _ hs => Res.ends_ite
      (fun _ => Res.ends_bind (readByte_ends hT hs) fun _ _ hs => ⟨rfl, hs⟩) (fun _ => ⟨rfl, hs⟩)
  | some g =>
    exact Res.ends_bind
      (Res.ends_ite (fun _ => dan3Offset1Read_ends hT hs) (fun _ => dan3OffsetRead_ends hT hTier hs)) fun _ _ hs => ⟨rfl, hs⟩

theorem decodeZx7_ends {c : DecodeCtx} (hT : .truncatedStream ∈ ks) (hM : .malformedToken ∈ ks) (hs : s.fault = false) :
    (decodeZx7 statePort c s).Ends ks (Fetched .zx7Token) := by
  refine Res.ends_bind (readBit_ends hT hs) fun _ _ hs => Res.ends_ite
    (fun _ => Res.ends_bind (readByte_ends hT hs) fun _ _ hs => ⟨rfl, hs⟩) fun _ => ?_
  refine Res.ends_bind (egReadCode_ends hT (fun _ => hM) hs) fun g _ hs => ?_
  cases g with
  | none => exact Res.ends_bind (readBit_ends hT hs) fun _ _ hs => Res.ends_ite (fun _ => ⟨rfl, hs⟩) (fun _ => hM)
  | some g =>
    exact Res.ends_bind (readByte_ends hT hs) fun _ _ hs => Res.ends_ite (fun _ => ⟨rfl, hs⟩) fun _ =>
      Res.ends_bind (readField_ends hT hs) fun _ _ hs => ⟨rfl, hs⟩

theorem decodeZx0New_ends {c : DecodeCtx} (hT : .truncatedStream ∈ ks) (hM : .malformedToken ∈ ks) (hs : s.fault = false) :
    (decodeZx0New statePort c s).Ends ks (Fetched .zx0New) := by
  refine Res.ends_bind (igReadCode_ends hT (fun _ => hM) hs) fun m _ hs => ?_
  cases m with
  | none => exact hM
  | some m =>
    exact Res.ends_ite (fun _ => ⟨rfl, hs⟩) fun _ => Res.ends_ite (fun _ => hM) fun _ =>
      Res.ends_bind (readByte_ends hT hs) fun _ _ hs => ⟨rfl, hs⟩

theorem zx0LengthRead_ends {c : DecodeCtx} (hT : .truncatedStream ∈ ks) (hM : .malformedToken ∈ ks) (hs : s.fault = false) :
    (zx0LengthRead statePort c s).Ends ks NoFault := by
  refine Res.ends_bind (igReadCode_ends hT (fun _ => hM) hs) fun n _ hs => ?_
  cases n with
  | none => exact hM
  | some n => exact hs

theorem decodeBbLen_ends (hT : .truncatedStream ∈ ks) (hs : s.fault = false) :
    (decodeBbLen statePort s).Ends ks (Fetched .bbLen) :=
  Res.ends_bind (readByte_ends hT hs) fun _ _ hs => Res.ends_bind (readByte_ends hT hs) fun _ _ hs =>
    Res.ends_bind (readByte_ends hT hs) fun _ _ hs => Res.ends_bind (readByte_ends hT hs) fun _ _ hs => ⟨rfl, hs⟩

theorem decodeBbGamma_ends {c : DecodeCtx} {d : Byte} {hi : BitVec 4} (hT : .truncatedStream ∈ ks)
    (hM : .malformedToken ∈ ks) (hs : s.fault = false) :
    (decodeBbGamma statePort c d hi s).Ends ks (Fetched .bbToken) := by
  refine Res.ends_bind (bbgReadCode_ends hT (fun _ => hM) hs) fun g _ hs => ?_
  cases g with
  | none => exact Res.ends_ite (fun _ => ⟨rfl, hs⟩) (fun _ => hM)
  | some g => exact ⟨rfl, hs⟩

theorem decodeBb_ends {c : DecodeCtx} (hT : .truncatedStream ∈ ks) (hM : .malformedToken ∈ ks) (hs : s.fault = false) :
    (decodeBb statePort c s).Ends ks (Fetched .bbToken) :=
  Res.ends_bind (readBit_ends hT hs) fun _ _ hs => Res.ends_ite
    (fun _ => Res.ends_bind (readByte_ends hT hs) fun _ _ hs => ⟨rfl, hs⟩) fun _ =>
    Res.ends_bind (readByte_ends hT hs) fun _ _ hs => Res.ends_ite (fun _ => decodeBbGamma_ends hT hM hs) fun _ =>
      Res.ends_bind (readField_ends hT hs) fun _ _ hs => decodeBbGamma_ends hT hM hs

/-- The kinds that fetching an element and running its rule can raise (60_exceptions.md R403; the conditions are 41_gamma.md R153, R169 and
46_dan1_dan3.md R313, R316). -/
def elementKinds (c : DecodeCtx) : Element → List ErrKind
  | .mdkToken | .pltFirst | .dan1First | .dan3First | .zx7First => [.truncatedStream, .outputOverflow]
  | .lzfToken => [.truncatedStream, .outputOverflow, .invalidBackReference]
  | .pltQ => [.truncatedStream, .invalidQValue]
  | .pltToken =>
    [.truncatedStream, .outputOverflow, .invalidBackReference] ++
      if igUnbounded c.cfg c.sentinel then [.malformedToken] else []
  | .dan1Token =>
    [.truncatedStream, .outputOverflow, .invalidBackReference] ++ if c.cfg.valBits < 32 then [.malformedToken] else []
  | .dan3Subset | .bbLen => [.truncatedStream, .invalidHeader]
  | .dan3Token =>
    [.truncatedStream, .outputOverflow, .invalidBackReference] ++
      if (c.cfg.valBits < 32 ∨ 32 < c.cfg.dan3ZeroLimit) ∨ c.cfg.dan3Prefix ≠ Config.standard.dan3Prefix then
        [.malformedToken] else []
  | .zx7Token | .zx0Lits | .zx0Rep | .zx0New =>
    [.truncatedStream, .outputOverflow, .invalidBackReference, .malformedToken]
  | .bbToken => [.truncatedStream, .outputOverflow, .invalidBackReference, .invalidHeader, .malformedToken]

theorem truncatedStream_mem_elementKinds (c : DecodeCtx) (e : Element) : .truncatedStream ∈ elementKinds c e := by
  cases e <;> simp [elementKinds]

theorem fetchElement_ends {e : Element} (hs : s.fault = false) :
    (fetchElement e s).Ends (elementKinds s.decodeCtx e) (Fetched e) := by
  have hT := truncatedStream_mem_elementKinds s.decodeCtx e
  cases e with
  | mdkToken => exact decodeMdk_ends hT hs
  | lzfToken => exact decodeLzf_ends hT hs
  | pltQ => exact Res.ends_bind (readField_ends hT hs) fun _ _ hs => ⟨rfl, hs⟩
  | pltFirst | dan1First | dan3First | zx7First => exact Res.ends_bind (readByte_ends hT hs) fun _ _ hs => ⟨rfl, hs⟩
  | pltToken => exact decodePlt_ends hT (fun h => by simp [elementKinds, h]) hs
  | dan1Token => exact decodeDan1_ends hT (fun h => by simp [elementKinds, h]) hs
  | dan3Subset =>
    exact Res.ends_bind (subsetRead_ends hT (by simp [elementKinds]) hs) fun _ _ hs => ⟨rfl, hs⟩
  | dan3Token =>
    exact decodeDan3_ends hT (fun h => by simp [elementKinds, h]) (fun h => by simp [elementKinds, h]) hs
  | zx7Token => exact decodeZx7_ends hT (by simp [elementKinds]) hs
  | zx0Lits | zx0Rep => exact Res.ends_bind (zx0LengthRead_ends hT (by simp [elementKinds]) hs) fun _ _ hs => ⟨rfl, hs⟩
  | zx0New => exact decodeZx0New_ends hT (by simp [elementKinds]) hs
  | bbLen => exact decodeBbLen_ends hT hs
  | bbToken => exact decodeBb_ends hT (by simp [elementKinds]) hs

/-! ## `OUT` and the bit writer -/

theorem putByte_ends {v : Byte} (hO : .outputOverflow ∈ ks) (hs : s.fault = false) : (putByte v s).Ends ks NoFault :=
  Res.ends_ite (fun _ => hO) (fun _ => hs)

theorem putRun_ends {v : Byte} {n : Nat} (hO : .outputOverflow ∈ ks) (hs : s.fault = false) :
    (putRun v n s).Ends ks NoFault := by
  induction n generalizing s with
  | zero => exact hs
  | succ n ih => exact Res.ends_bind (putByte_ends hO hs) fun _ _ hs => ih hs

theorem literalRun_ends {n : Nat} (hT : .truncatedStream ∈ ks) (hO : .outputOverflow ∈ ks) (hs : s.fault = false) :
    (literalRun n s).Ends ks NoFault := by
  induction n generalizing s with
  | zero => exact hs
  | succ n ih =>
    have hput : (putLiteral s).Ends ks NoFault :=
      Res.ends_bind (readByte_ends hT hs) fun _ _ hs => putByte_ends hO hs
    exact Res.ends_bind hput fun _ _ hs => ih hs

theorem copyLoop_ends {offset n : Nat} (hO : .outputOverflow ∈ ks) (hs : s.fault = false) :
    (copyLoop offset n s).Ends ks NoFault := by
  induction n generalizing s with
  | zero => exact hs
  | succ n ih => exact Res.ends_bind (putByte_ends hO hs) fun _ _ hs => ih hs

theorem copy_ends {offset length : Nat} (hO : .outputOverflow ∈ ks) (hB : .invalidBackReference ∈ ks)
    (hs : s.fault = false) : (copy offset length s).Ends ks NoFault :=
  Res.ends_ite (fun _ => hB) (fun _ => copyLoop_ends hO hs)

theorem backfill_ends {a : Word} {bits : Byte} (hs : s.fault = false) : (backfill a bits s).Ends ks NoFault :=
  Res.ends_ite (fun _ => hs) (fun _ => trivial)

theorem writeOpenBit_ends {b : Bool} (hs : s.fault = false) : (writeOpenBit b s).Ends ks NoFault :=
  Res.ends_bind (Res.ends_ite (fun _ => backfill_ends hs) (fun _ => hs)) fun _ _ hs => hs

theorem writeBit_ends {b : Bool} (hO : .outputOverflow ∈ ks) (hs : s.fault = false) : (writeBit b s).Ends ks NoFault :=
  Res.ends_ite
    (fun _ => Res.ends_bind (Res.ends_ite (fun _ => backfill_ends hs) (fun _ => hs)) fun _ _ hs => hs)
    (fun _ => Res.ends_ite
      (fun _ => Res.ends_bind (putByte_ends hO hs) fun _ t hs =>
        writeOpenBit_ends (s := { t with wIndex := t.outLen - 1, wMask := 0x80 }) hs)
      (fun _ => writeOpenBit_ends hs))

theorem writeAll_ends {bits : List Bool} (hO : .outputOverflow ∈ ks) (hs : s.fault = false) :
    (writeAll bits s).Ends ks NoFault := by
  induction bits generalizing s with
  | nil => exact hs
  | cons b r ih => exact Res.ends_bind (writeBit_ends hO hs) fun _ _ hs => ih hs

/-! ## The rules of the tokens -/

theorem thenState_ends {r : Res State Fault Unit} {d : DState} (hr : r.Ends ks NoFault) : (thenState r d).Ends ks NoFault :=
  Res.ends_bind hr fun _ _ hs => hs

theorem counted_ends {r : Res State Fault Unit} (hr : r.Ends ks NoFault) : (counted r).Ends ks NoFault :=
  Res.ends_bind hr fun _ _ hs => hs

theorem zx0StateBit_ends {other : DState} (hT : .truncatedStream ∈ ks) (hs : s.fault = false) :
    (zx0StateBit other s).Ends ks NoFault :=
  Res.ends_bind (readBit_ends hT hs) fun _ _ hs => hs

theorem zx0MatchLength_ends (hT : .truncatedStream ∈ ks) (hM : .malformedToken ∈ ks) (hs : s.fault = false) :
    (zx0MatchLength s).Ends ks NoFault := by
  refine Res.ends_bind (igReadCode_ends hT (fun _ => hM) hs) fun g _ hs => ?_
  cases g with
  | none => exact hM
  | some g => exact Res.ends_ite (fun _ => hM) (fun _ => hs)

theorem zx0Match_ends {msb : Word} {bo : Byte} (hT : .truncatedStream ∈ ks) (hO : .outputOverflow ∈ ks)
    (hB : .invalidBackReference ∈ ks) (hM : .malformedToken ∈ ks) (hs : s.fault = false) :
    (zx0Match msb bo s).Ends ks NoFault := by
  have hlength : (zx0MatchLength { s with dLastOffset := s.cfg.fit (zx0Offset msb bo), rBacktrack := true }).Ends ks
      NoFault := zx0MatchLength_ends hT hM hs
  exact Res.ends_bind hlength fun _ _ hs => Res.ends_bind (copy_ends hO hB hs) fun _ _ hs => zx0StateBit_ends hT hs

@[simp] theorem State.exchanges_fault (n : Nat) (s : State) : (State.exchanges n s).fault = s.fault := by
  induction n with
  | zero => rfl
  | succ n ih => exact ih

theorem zx0End_ends (hs : s.fault = false) : (zx0End s).Ends ks NoFault := by
  change (if s.dMirror then s.reverseOut else s).fault = false
  split
  · exact (State.exchanges_fault _ s).trans hs
  · exact hs

/-- The rule of a token raises only what its element can. -/
theorem runToken_ends {i : Instr} {e : Element} {c : DecodeCtx} (hi : elementOf i = some e) (hs : s.fault = false) :
    (runToken i s).Ends (elementKinds c e) NoFault := by
  have hT := truncatedStream_mem_elementKinds c e
  cases i with cases hi
  | mdkRaw | lzfLrun | dan1Raw | dan3Raw => exact thenState_ends (literalRun_ends hT (by simp [elementKinds]) hs)
  | mdkRle => exact thenState_ends (putRun_ends (by simp [elementKinds]) hs)
  | pltFirst | pltLit | dan1First | dan1Lit | dan3First | dan3Lit | zx7First | zx7Lit | bbLit =>
    exact thenState_ends (putByte_ends (by simp [elementKinds]) hs)
  | lzfShort | lzfLong | pltMatch | dan1Match | dan3Match | zx7Match | bbMatch =>
    exact thenState_ends (copy_ends (by simp [elementKinds]) (by simp [elementKinds]) hs)
  | mdkEnd | lzfEnd | pltEnd | dan1End | dan3End | zx7End | dan3Subset => exact hs
  | pltQ => exact Res.ends_ite (fun _ => by simp [elementKinds]) (fun _ => hs)
  | zx0Lits =>
    exact Res.ends_bind (literalRun_ends hT (by simp [elementKinds]) hs) fun _ _ hs => zx0StateBit_ends hT hs
  | zx0Rep =>
    exact Res.ends_bind (copy_ends (by simp [elementKinds]) (by simp [elementKinds]) hs) fun _ _ hs =>
      zx0StateBit_ends hT hs
  | zx0Match =>
    exact zx0Match_ends hT (by simp [elementKinds]) (by simp [elementKinds]) (by simp [elementKinds]) hs
  | zx0End => exact zx0End_ends hs
  | bbLen => exact Res.ends_ite (fun _ => by simp [elementKinds]) (fun _ => hs)
  | bbEnd => exact Res.ends_ite (fun _ => by simp [elementKinds]) (fun _ => hs)

/-! ## The steps of a job -/

theorem runElement_ends {e : Element} (hs : s.fault = false) :
    (runElement e s).Ends (elementKinds s.decodeCtx e) NoFault :=
  Res.ends_bind (fetchElement_ends hs) fun _ _ ⟨hi, hs⟩ => runToken_ends hi hs

theorem tokenBody_eq_runElement {e : Element} (he : s.tokenElement = .ok e) : tokenBody s = runElement e s := by
  rw [tokenBody, he]

theorem tokenBody_ends (hks : ∀ e, s.tokenElement = .ok e → elementKinds s.decodeCtx e ⊆ ks) (hs : s.fault = false) :
    (tokenBody s).Ends ks NoFault := by
  cases he : s.tokenElement with
  | ok e =>
    rw [tokenBody_eq_runElement he]
    exact Res.ends_mono (runElement_ends hs) (hks e he)
  | error f =>
    rw [tokenBody, he]
    trivial

theorem codecCode_codecOf (c : BitVec 3) : codecCode (codecOf c) = c := by
  revert c
  decide

/-- The code of the job's codec is what `CODEC` holds (10_state.md R33). -/
theorem State.codec_eq_of_jobCodec {x : Codec} (h : s.jobCodec = x) : s.codec = codecCode x := by
  rw [← h, State.jobCodec, codecCode_codecOf]

/-- The elements `TOKEN[CODEC]` can be (43_decoder_common.md R217, 48_zx0.md R350). -/
def tokenElements : Codec → List Element
  | .mdkRle => [.mdkToken]
  | .lzf => [.lzfToken]
  | .pletter => [.pltToken]
  | .dan1 => [.dan1Token]
  | .dan3 => [.dan3Token]
  | .zx7 => [.zx7Token]
  | .zx0 => [.zx0Lits, .zx0Rep, .zx0New]
  | .bitBuster => [.bbToken]

/-- The elements a header step fetches: those of `HEADER[CODEC]`, or a token where there is no header (R211, R217). -/
def headerElements : Codec → List Element
  | .pletter => [.pltQ, .pltFirst]
  | .dan1 => [.dan1First]
  | .dan3 => [.dan3Subset, .dan3First]
  | .zx7 => [.zx7First]
  | .bitBuster => [.bbLen]
  | .mdkRle => tokenElements .mdkRle
  | .lzf => tokenElements .lzf
  | .zx0 => tokenElements .zx0

theorem State.tokenElement_mem {e : Element} (he : s.tokenElement = .ok e) : e ∈ tokenElements s.jobCodec := by
  unfold State.tokenElement at he
  cases hx : s.jobCodec with rw [hx] at he
  | zx0 =>
    cases hd : s.dState with rw [hd] at he
    | zx0Lit | zx0Last | zx0New => cases he; decide
    | idle | header | token | done | fault => cases he
  | mdkRle | lzf | pletter | dan1 | dan3 | zx7 | bitBuster => cases he; decide

/-- A header raises only what R403 lists for the codec, whatever the parameters. -/
theorem elementKinds_header_subset (c : DecodeCtx) {x : Codec} {e : Element} (he : e ∈ headerElements x) :
    elementKinds c e ⊆ codecRaises (codecCode x) := by
  cases x <;> simp only [headerElements, tokenElements, List.mem_cons, List.not_mem_nil, or_false] at he
  case pletter | dan3 => obtain rfl | rfl := he <;> simp [elementKinds, codecRaises, codecCode]
  case zx0 => obtain rfl | rfl | rfl := he <;> simp [elementKinds, codecRaises, codecCode]
  all_goals subst he; simp [elementKinds, codecRaises, codecCode]

theorem headerBody_ends (hs : s.fault = false) : (headerBody s).Ends (codecRaises (codecCode s.jobCodec)) NoFault := by
  have hrun {e : Element} {u : State} (he : e ∈ headerElements s.jobCodec) (hu : u.fault = false) :
      (runElement e u).Ends (codecRaises (codecCode s.jobCodec)) NoFault :=
    Res.ends_mono (runElement_ends hu) (elementKinds_header_subset _ he)
  have hbody {d : DState} (hx : tokenElements s.jobCodec = headerElements s.jobCodec) :
      (tokenBody { s with dState := d }).Ends (codecRaises (codecCode s.jobCodec)) NoFault :=
    tokenBody_ends (fun _ he => elementKinds_header_subset _ (hx ▸ State.tokenElement_mem (s := { s with dState := d }) he)) hs
  unfold headerBody
  cases hx : s.jobCodec with rw [hx] at hrun hbody
  | mdkRle | lzf | zx0 => exact hbody rfl
  | pletter =>
    exact Res.ends_bind (p := NoFault) (Res.ends_ite (fun _ => hs) fun _ => hrun (by decide) hs) fun _ _ hs => hrun (by decide) hs
  | dan1 | zx7 | bitBuster => exact hrun (by decide) hs
  | dan3 => exact Res.ends_bind (hrun (by decide) hs) fun _ _ hs => hrun (by decide) hs

/-- A `TD_STEP` of a started job raises what its header or its token can. -/
theorem tdStep_ends (hidle : s.dState = .idle → .malformedToken ∈ ks) (hheader : codecRaises (codecCode s.jobCodec) ⊆ ks)
    (htoken : s.dState ≠ .header → ∀ e, s.tokenElement = .ok e → elementKinds s.decodeCtx e ⊆ ks) (hs : s.fault = false) :
    (tdStep s).Ends ks NoFault := by
  unfold tdStep
  cases hd : s.dState with
  | idle => exact hidle hd
  | done | fault => exact hs
  | header =>
    exact Res.ends_ite (fun _ => hs) fun _ => counted_ends (Res.ends_mono (headerBody_ends hs) hheader)
  | token | zx0Lit | zx0Last | zx0New => exact counted_ends (tokenBody_ends (htoken (by simp [hd])) hs)

theorem raisable_tdStep : raisable .tdStep =
    [.truncatedStream, .invalidHeader, .invalidBackReference, .invalidQValue, .malformedToken, .outputOverflow] := rfl

/-- Any element raises only kinds a `TD_STEP` can. -/
theorem elementKinds_subset_raisable (c : DecodeCtx) (e : Element) : elementKinds c e ⊆ raisable .tdStep := by
  rw [raisable_tdStep]
  cases e with
  | pltToken | dan1Token | dan3Token => simp only [elementKinds]; split <;> simp
  | _ => simp [elementKinds]

theorem codecRaises_subset_raisable (c : BitVec 3) : codecRaises c ⊆ raisable .tdStep := by
  revert c
  decide

theorem tdStep_ends_raisable (hs : s.fault = false) : (tdStep s).Ends (raisable .tdStep) NoFault :=
  tdStep_ends (fun _ => by decide) (codecRaises_subset_raisable _) (fun _ _ _ => elementKinds_subset_raisable _ _) hs

theorem tdLoop_ends {n : Nat} (hs : s.fault = false) : (tdLoop n s).Ends (raisable .tdRun) NoFault := by
  induction n generalizing s with
  | zero => trivial
  | succ n ih => exact Res.ends_ite (fun _ => hs) fun _ => Res.ends_bind (tdStep_ends_raisable hs) fun _ _ hs => ih hs

theorem tdRun_ends (hs : s.fault = false) : (tdRun s).Ends (raisable .tdRun) NoFault :=
  Res.ends_ite (fun _ => Res.ends_raised.mpr (by decide)) (fun _ => tdLoop_ends hs)

/-! ## The match scanner -/

theorem inMode_ends {m : MsMode} {body : State → Res State Fault (List Word)} (hM : .malformedToken ∈ ks)
    (hb : (body s).Ends ks NoFault) : (inMode m body s).Ends ks NoFault :=
  Res.ends_ite (fun _ => hb) (fun _ => hM)

theorem msInsert_ends {i : Word} (hM : .malformedToken ∈ ks) (hs : s.fault = false) : (msInsert i s).Ends ks NoFault :=
  Res.ends_ite (fun _ => hM) fun _ => Res.ends_ite (fun _ => trivial) (fun _ => hs)

theorem msWalk_ends {i : Word} (hM : .malformedToken ∈ ks) (hs : s.fault = false) : (msWalk i s).Ends ks NoFault := by
  refine Res.ends_ite (fun _ => hM) fun _ => Res.ends_ite (fun _ => trivial) fun _ => ?_
  split
  · trivial
  · exact hs

theorem msLinear_ends {i : Word} (hM : .malformedToken ∈ ks) (hs : s.fault = false) : (msLinear i s).Ends ks NoFault := by
  refine Res.ends_ite (fun _ => hM) fun _ => ?_
  split
  · trivial
  · exact hs

@[simp] theorem State.stepRuns_fault (p n off : Nat) (s : State) : (State.stepRuns p n off s).fault = s.fault := by
  induction n generalizing off s with
  | zero => rfl
  | succ n ih => exact ih ..

theorem msStepRun_ends (hM : .malformedToken ∈ ks) (hs : s.fault = false) : (msStepRun s).Ends ks NoFault :=
  Res.ends_ite (fun _ => hM) fun _ => Res.ends_ite (fun _ => trivial) fun _ => (State.stepRuns_fault ..).trans hs

theorem msInit_ends (hs : s.fault = false) : (msInit s).Ends (raisable .msInit) NoFault :=
  Res.ends_ite (fun _ => Res.ends_raised.mpr (by decide)) fun _ => Res.ends_ite (fun _ => Res.ends_raised.mpr (by decide)) (fun _ => hs)

theorem tdStart_ends (s : State) : (tdStart s).Ends (raisable .tdStart) NoFault :=
  Res.ends_ite (fun _ => Res.ends_raised.mpr (by decide)) (fun _ => s.clearFault_fault)

/-! ## Commands -/

/-- `ERR` after a transaction that has taken a fault. -/
theorem finish_err {r : Res State Fault (List Word)} {t : State} (ht : finish r = .next t) (hf : t.fault = true)
    (h : r.Ends ks NoFault) : ∃ k ∈ ks, t.err.toNat = faultCode k := by
  cases r with
  | ok ws u =>
    cases ht
    exact absurd hf (Bool.eq_false_iff.mp h)
  | raised k u =>
    cases ht
    exact ⟨k, h, by cases k <;> rfl⟩
  | stuck f => cases ht

theorem operation_err {body : State → Res State Fault (List Word)} {t : State} (ht : operation body s = .next t)
    (hf : t.fault = true) (hs : s.fault = false) (h : (body s).Ends ks NoFault) : ∃ k ∈ ks, t.err.toNat = faultCode k :=
  finish_err (operation_runs hs ▸ ht) hf h

theorem quietOperation_err {body : State → Res State Fault Unit} {t : State} (ht : operation (quiet body) s = .next t)
    (hf : t.fault = true) (hs : s.fault = false) (h : (body s).Ends ks NoFault) : ∃ k ∈ ks, t.err.toNat = faultCode k :=
  operation_err ht hf hs (Res.ends_bind h fun _ _ hs => hs)

/-- The readers of the gamma unit and of BR turn the value read into result words. -/
theorem map_ends {α β : Type} {f : α → β} {r : Res State Fault α} (h : r.Ends ks NoFault) : (r.map f).Ends ks NoFault :=
  Res.ends_bind h fun _ _ hs => hs

theorem egRead_ends {limit : Word} (hw : 32 ≤ s.cfg.valBits) (hs : s.fault = false) :
    (egReadCode statePort s.cfg limit.toNat s).Ends (raisable (.egRead limit)) NoFault := by
  change Res.Ends (if 32 < limit then [.malformedToken] else [.truncatedStream]) _ _
  split
  · next hlimit =>
    rw [egReadCode_refused _ _ _ hlimit]
    exact Res.ends_raised.mpr (by decide)
  · next hlimit =>
    refine egReadCode_ends (by decide) (fun h => ?_) hs
    exact absurd h (by bv_omega)

/-- A command that ends with a fault has raised a kind listed for it. -/
theorem exec_err_raisable {i : Instr} {t : State} (hc : i.isCommand = true) (hs : s.fault = false) (hw : 32 ≤ s.cfg.valBits)
    (ht : exec i s = .next t) (hf : t.fault = true) : ∃ k ∈ raisable i, t.err.toNat = faultCode k := by
  cases i with simp only [exec] at ht
  | reset | abort => exact finish_err ht hf rfl
  | regRead => exact finish_err ht hf hs
  | regWrite n v => exact finish_err ht hf ((s.setReg_fault n v).trans hs)
  | srcWrite => exact finish_err ht hf (Res.ends_ite (fun _ => hs) (fun _ => trivial))
  | outRead => exact finish_err ht hf (Res.ends_ite (fun _ => hs) (fun _ => hs))
  | mlenRead =>
    refine finish_err ht hf ?_
    split
    · exact Res.ends_ite (fun _ => hs) (fun _ => hs)
    · exact hs
  | bwInit | brInit => exact finish_err ht hf s.clearFault_fault
  | writeBit => exact quietOperation_err ht hf hs (writeBit_ends List.mem_cons_self hs)
  | writeByte => exact quietOperation_err ht hf hs (putByte_ends List.mem_cons_self hs)
  | writeBits | egWrite | igWrite | bbgWrite =>
    exact quietOperation_err ht hf hs
      (Res.ends_ite (fun _ => List.mem_pair.mpr (.inr rfl)) (fun _ => writeAll_ends List.mem_cons_self hs))
  | wSetBacktrack =>
    exact quietOperation_err ht hf hs (Res.ends_ite (fun _ => List.mem_cons_self) (fun _ => hs))
  | flush | rSetBacktrack => exact quietOperation_err ht hf hs hs
  | readBit => exact operation_err ht hf hs (map_ends (readBit_ends List.mem_cons_self hs))
  | readByte => exact operation_err ht hf hs (map_ends (readByte_ends List.mem_cons_self hs))
  | readBits =>
    exact operation_err ht hf hs
      (Res.ends_ite (fun _ => List.mem_pair.mpr (.inr rfl)) (fun _ => map_ends (readField_ends List.mem_cons_self hs)))
  | egRead => exact operation_err ht hf hs (map_ends (egRead_ends hw hs))
  | igRead =>
    exact operation_err ht hf hs (map_ends (igReadCode_ends List.mem_cons_self (fun _ => List.mem_pair.mpr (.inr rfl)) hs))
  | bbgRead =>
    exact operation_err ht hf hs
      (map_ends (bbgReadCode_ends List.mem_cons_self (fun h => absurd hw (Nat.not_le.mpr h)) hs))
  | gammaBits => exact operation_err ht hf hs (Res.ends_ite (fun _ => List.mem_cons_self) (fun _ => hs))
  | msInit => exact finish_err ht hf (msInit_ends s.clearFault_fault)
  | msInsert =>
    exact operation_err ht hf hs (inMode_ends List.mem_cons_self (msInsert_ends List.mem_cons_self hs))
  | msWalk =>
    exact operation_err ht hf hs (inMode_ends List.mem_cons_self (msWalk_ends List.mem_cons_self hs))
  | msLinear =>
    exact operation_err ht hf hs (inMode_ends List.mem_cons_self (msLinear_ends List.mem_cons_self hs))
  | msStepRun =>
    exact operation_err ht hf hs (inMode_ends List.mem_cons_self (msStepRun_ends List.mem_cons_self hs))
  | tdStart => exact finish_err ht hf (tdStart_ends s)
  | tdStep => exact quietOperation_err ht hf hs (tdStep_ends_raisable hs)
  | tdRun => exact quietOperation_err ht hf hs (tdRun_ends hs)
  | _ => cases hc

/-! ## A step of a started job -/

/-- The kinds of R403 for the codec, and `MalformedToken` for a DAN3 job in an instance with a `DAN3_ZERO_LIMIT` above 32. -/
def State.stepKinds (s : State) : List ErrKind :=
  codecRaises s.codec ++ if s.codec = 4 ∧ 32 < s.cfg.dan3ZeroLimit then [.malformedToken] else []

theorem State.mem_stepKinds {k : ErrKind} : k ∈ s.stepKinds ↔
    k ∈ codecRaises s.codec ∨ (s.codec = 4 ∧ 32 < s.cfg.dan3ZeroLimit ∧ k = .malformedToken) := by
  rw [State.stepKinds, List.mem_append]
  split <;> simp_all

/-- A token raises what its codec may. -/
theorem elementKinds_token_subset {e : Element} (hw : 32 ≤ s.cfg.valBits)
    (hprefix : s.codec = 4 → s.cfg.dan3Prefix = Config.standard.dan3Prefix)
    (hsentinel : s.codec = 2 → s.dSentinel ≠ 0 ∧ s.dSentinel ≤ 0x80000000) (he : e ∈ tokenElements s.jobCodec) :
    elementKinds s.decodeCtx e ⊆ s.stepKinds := by
  have hw' : ¬ s.cfg.valBits < 32 := Nat.not_lt.mpr hw
  have hcodec := State.codec_eq_of_jobCodec (s := s) rfl
  cases hx : s.jobCodec with rw [hx] at he hcodec
  | zx0 =>
    simp only [tokenElements, List.mem_cons, List.not_mem_nil, or_false] at he
    obtain rfl | rfl | rfl := he <;> simp [elementKinds, State.stepKinds, hcodec, codecCode, codecRaises]
  | pletter =>
    obtain rfl := List.mem_singleton.mp he
    obtain ⟨hne, hle⟩ := hsentinel hcodec
    have hbounded : igUnbounded s.cfg s.dSentinel = false := by
      simpa [igUnbounded, hw'] using And.intro hne hle
    simp [elementKinds, State.decodeCtx, hbounded, State.stepKinds, hcodec, codecCode, codecRaises]
  | dan3 =>
    obtain rfl := List.mem_singleton.mp he
    by_cases hlimit : 32 < s.cfg.dan3ZeroLimit <;>
      simp [elementKinds, State.decodeCtx, hprefix hcodec, hw', hlimit, State.stepKinds, hcodec, codecCode, codecRaises]
  | mdkRle | lzf | dan1 | zx7 | bitBuster =>
    obtain rfl := List.mem_singleton.mp he
    simp [elementKinds, State.decodeCtx, hw', State.stepKinds, hcodec, codecCode, codecRaises]

theorem exec_tdStep_err_stepKinds {t : State} (hs : s.fault = false) (hidle : s.dState ≠ .idle) (hw : 32 ≤ s.cfg.valBits)
    (hprefix : s.codec = 4 → s.cfg.dan3Prefix = Config.standard.dan3Prefix)
    (hsentinel : s.codec = 2 → s.dState ≠ .header → s.dSentinel ≠ 0 ∧ s.dSentinel ≤ 0x80000000)
    (ht : exec .tdStep s = .next t) (hf : t.fault = true) : ∃ k ∈ s.stepKinds, t.err.toNat = faultCode k := by
  refine quietOperation_err ht hf hs (tdStep_ends (fun h => absurd h hidle) ?_ (fun hd e he => ?_) hs)
  · rw [← State.codec_eq_of_jobCodec rfl]
    exact List.subset_append_left ..
  · exact elementKinds_token_subset hw hprefix (fun hc => hsentinel hc hd) (State.tokenElement_mem he)

end Operations

/-- Settles O10: each command by what its shared operations raise, and a step by the elements its codec fetches in this state. -/
theorem raisedKinds : Obligations.RaisedKinds := by
  refine ⟨fun i s t hc hs hw => exec_err_raisable hc hs hw, fun s t hs hw hidle hprefix hsentinel ht hf => ?_⟩
  obtain ⟨k, hk, herr⟩ := exec_tdStep_err_stepKinds hs hidle hw hprefix hsentinel ht hf
  obtain hk | ⟨hcodec, hlimit, rfl⟩ := State.mem_stepKinds.mp hk
  · exact .inl ⟨k, hk, herr⟩
  · exact .inr ⟨hcodec, hlimit, herr⟩

end Machine

end Sys2Proof
end


section
/-! PROOFS. Reset (70_reset_and_hazards.md R440). `RESET` and power-on leave one form of state, `State.cleared`; what holds of that form is proved once, for
an instance with any parameters, and holds after both. -/

namespace Sys2Proof.Machine

-- No concurrency, as in the tests.
set_option Elab.async false

/-! ## The form of state that reset leaves -/

/-- The registers, buffers and tables of power-on in the instance of `s`, whose `BB_MAXINPUT` keeps its `VAL_BITS` bits of the reset value. The parameters
and the fields of the model's own are those of `s`. -/
def State.cleared (s : State) : State :=
  { State.reset with
    cfg := s.cfg, cmds := s.cmds, resp := s.resp, epoch := s.epoch, draws := s.draws
    bbMaxInput := s.cfg.fit Params.bbMaxInputReset }

/-- With the default parameters `BB_MAXINPUT` is as wide as a word, so power-on is of this form. -/
theorem State.cleared_reset : State.reset.cleared = State.reset := by
  have hfit : Config.standard.fit Params.bbMaxInputReset = Params.bbMaxInputReset := Config.fit_of_wide _ (Nat.le_refl 32)
  change { State.reset with bbMaxInput := Config.standard.fit Params.bbMaxInputReset } = State.reset
  rw [hfit]
  rfl

/-- `STATUS` has the same fields in every cleared state, whose widths and values are numerals. -/
@[simp] theorem State.cleared_status (s : State) : s.cleared.status = 0 := by
  have hfields : s.cleared.status = State.reset.status := rfl
  rw [hfields]
  decide

/-- `RESET` is refused in no state: it clears the registers, makes the contents unspecified anew (R441), and answers `(0, 0)`. -/
theorem exec_reset (s : State) :
    exec .reset s = .next (State.cleared { s with resp := ⟨0, []⟩, epoch := s.epoch + 1 }) := by
  have hanswer : exec .reset s =
    .next (State.answered [] (State.cleared { s with resp := State.reset.resp, epoch := s.epoch + 1 })) := rfl
  rw [hanswer, State.answered, State.cleared_status]
  rfl

/-! ## What holds of it -/

@[simp] theorem Memory.read_nil (a : Nat) : Memory.read [] a = none := rfl

/-- The registers are those of R440, and buffers and tables without entries hold no value. -/
theorem State.cleared_atReset (s : State) : s.cleared.AtReset where
  writer := ⟨rfl, rfl, rfl, rfl⟩
  reader := ⟨rfl, rfl, rfl, rfl, rfl⟩
  decoder := ⟨rfl, rfl, rfl, rfl, rfl, rfl, rfl, rfl⟩
  scanner := rfl
  configuration := ⟨rfl, rfl, rfl, rfl, rfl, rfl, rfl, rfl⟩
  status := ⟨rfl, rfl, s.cleared_status⟩
  contents a := ⟨Memory.read_nil a, Memory.read_nil a, Table.read_void a, Table.read_void a, Table.read_void a⟩

@[simp] theorem Table.sized_void (n : Nat) : Table.void.sized n = true := by
  simp [Table.sized, Table.void]

theorem State.cleared_sized (s : State) : s.cleared.sized = true := by
  have hspaces : s.cleared.sized = (Table.void.sized Params.keys && Table.void.sized s.cfg.srcCap.toNat &&
    Table.void.sized (s.cfg.srcCap.toNat + 1)) := rfl
  simp [hspaces]

/-- No byte of `OUT` is below an `out_len` of 0. -/
theorem State.cleared_outWritten (s : State) : s.cleared.outWritten :=
  ⟨BitVec.le_def.mpr (Nat.zero_le _), fun a ha => absurd ha (Nat.not_lt_zero a)⟩

/-- Every value register is 0 but `BB_MAXINPUT`, which has been fitted. -/
theorem State.cleared_valuesFit (s : State) : s.cleared.valuesFit = true := by
  have hmax : (s.cfg.fit Params.bbMaxInputReset).toNat < 2 ^ s.cfg.valueBits := Config.fit_lt _ _
  have hregisters : s.cleared.valuesFit =
    (List.replicate 13 (0 : Word) ++ [s.cfg.fit Params.bbMaxInputReset]).all (·.toNat < 2 ^ s.cfg.valueBits) := rfl
  simpa [hregisters] using hmax

/-- The invariant holds after reset in every instance: the masks are 0, and there is no fault. -/
theorem State.cleared_inv (s : State) : s.cleared.Inv where
  canonical := State.reset_canonical
  sized := s.cleared_sized
  outWritten := s.cleared_outWritten
  writerOk := ⟨rfl, fun h => absurd rfl h⟩
  readerOk := ⟨rfl, fun h => absurd rfl h⟩
  faultOk := ⟨⟨nofun, nofun⟩, ⟨nofun, fun h => absurd rfl h⟩⟩
  valuesFit _ := s.cleared_valuesFit

/-! ## The statements -/

/-- Settles O1: `RESET` leaves a cleared state, and power-on is one, in which no command is pending. -/
theorem resetState : Obligations.ResetState := by
  refine ⟨fun s => ⟨_, exec_reset s, State.cleared_atReset _, rfl, rfl, rfl⟩, ?_, rfl⟩
  rw [← State.cleared_reset]
  exact State.cleared_atReset _

/-- Settles O59: power-on leaves a cleared state. -/
theorem invariantAtReset : Obligations.InvariantAtReset := by
  rw [Obligations.InvariantAtReset, ← State.cleared_reset]
  exact State.cleared_inv _

end Sys2Proof.Machine
end

section
/-! PROOFS. What the token decoder reads through a port (43_decoder_common.md R211): a reader *spells* a value by the elements from which it answers that value, whatever the
port. One lemma for each field, code and token (30_encoding.md R97 to R105); the port over elements and the machine's bit reader are two such ports. -/

namespace Sys2Proof

-- No concurrency, as in the tests.
set_option Elab.async false

/-! ## Elements through a port -/

section Ports
variable {σ φ α β : Type} {P : Port σ φ}

/-- The port delivers these elements next, and `u` is the reader behind them. -/
def Port.Reads (P : Port σ φ) : List Elem → σ → σ → Prop
  | [], s, u => s = u
  | .bit b :: es, s, u => ∃ t, P.bit s = .ok b t ∧ P.Reads es t u
  | .byte v :: es, s, u => ∃ t, P.byte s = .ok v t ∧ P.Reads es t u

theorem Port.reads_append {xs ys : List Elem} {s u : σ} :
    P.Reads (xs ++ ys) s u ↔ ∃ t, P.Reads xs s t ∧ P.Reads ys t u := by
  induction xs generalizing s with
  | nil => exact ⟨fun h => ⟨s, rfl, h⟩, fun ⟨_, ht, h⟩ => ht ▸ h⟩
  | cons e xs ih =>
    cases e with
    | bit b =>
      constructor
      · rintro ⟨t, hb, h⟩
        obtain ⟨w, hx, hy⟩ := ih.mp h
        exact ⟨w, ⟨t, hb, hx⟩, hy⟩
      · rintro ⟨w, ⟨t, hb, hx⟩, hy⟩
        exact ⟨t, hb, ih.mpr ⟨w, hx, hy⟩⟩
    | byte v =>
      constructor
      · rintro ⟨t, hb, h⟩
        obtain ⟨w, hx, hy⟩ := ih.mp h
        exact ⟨w, ⟨t, hb, hx⟩, hy⟩
      · rintro ⟨w, ⟨t, hb, hx⟩, hy⟩
        exact ⟨t, hb, ih.mpr ⟨w, hx, hy⟩⟩

/-- A list of elements delivers its own elements, whatever follows them. -/
theorem elemPort_reads (es rest : List Elem) : (elemPort φ).Reads es (es ++ rest) rest := by
  induction es with
  | nil => rfl
  | cons e es ih =>
    cases e with
    | bit b => exact ⟨_, rfl, ih⟩
    | byte v => exact ⟨_, rfl, ih⟩

/-- Wherever the port delivers the elements `es`, the reader `r` answers `a` and stands behind them. -/
def Port.Spells (P : Port σ φ) (r : σ → Res σ φ α) (es : List Elem) (a : α) : Prop :=
  ∀ s u, P.Reads es s u → r s = .ok a u

/-- The elements of a sequence are those of its parts, in this order. -/
theorem Port.Spells.bind {r : σ → Res σ φ α} {f : α → σ → Res σ φ β} {xs ys : List Elem} {a : α} {b : β}
    (hr : P.Spells r xs a) (hf : P.Spells (f a) ys b) : P.Spells (fun s => (r s).bind f) (xs ++ ys) b := by
  intro s u h
  obtain ⟨t, hx, hy⟩ := Port.reads_append.mp h
  change (r s).bind f = _
  rw [hr s t hx]
  exact hf t u hy

theorem Port.Spells.bit {f : Bool → σ → Res σ φ α} {es : List Elem} {b : Bool} {a : α} (h : P.Spells (f b) es a) :
    P.Spells (fun s => (P.bit s).bind f) (.bit b :: es) a := by
  rintro s u ⟨t, hb, ht⟩
  change Res.bind _ f = _
  rw [hb]
  exact h t u ht

theorem Port.Spells.byte {f : Byte → σ → Res σ φ α} {es : List Elem} {v : Byte} {a : α} (h : P.Spells (f v) es a) :
    P.Spells (fun s => (P.byte s).bind f) (.byte v :: es) a := by
  rintro s u ⟨t, hb, ht⟩
  change Res.bind _ f = _
  rw [hb]
  exact h t u ht

/-- A reader at its end has read nothing more. -/
theorem Port.Spells.pure {a b : α} (h : a = b) : P.Spells (fun s => .ok a s) [] b := by
  rintro s u rfl
  rw [h]

theorem Port.Spells.last {r : σ → Res σ φ α} {f : α → σ → Res σ φ β} {es : List Elem} {a : α} {b : β}
    (hr : P.Spells r es a) (hf : P.Spells (f a) [] b) : P.Spells (fun s => (r s).bind f) es b := by
  simpa using hr.bind hf

theorem Port.Spells.ite_pos {c : Prop} [Decidable c] {r r' : σ → Res σ φ α} {es : List Elem} {a : α} (hc : c)
    (h : P.Spells r es a) : P.Spells (fun s => if c then r s else r' s) es a := by
  simpa [hc] using h

theorem Port.Spells.ite_neg {c : Prop} [Decidable c] {r r' : σ → Res σ φ α} {es : List Elem} {a : α} (hc : ¬ c)
    (h : P.Spells r' es a) : P.Spells (fun s => if c then r s else r' s) es a := by
  simpa [hc] using h

end Ports

/-! ## Fields (20_memory.md R67, R68) -/

section Readers
variable {σ φ : Type} {P : Port σ φ}

/-- Shifting in the next lower bit of a word uncovers one more of its bits. -/
theorem shiftIn_ushiftRight (w : Word) (n : Nat) : shiftIn (w >>> (n + 1)) (w.getLsbD n) = w >>> n := by
  refine BitVec.eq_of_getLsbD_eq fun i hi => ?_
  cases i with
  | zero => simp [shiftIn]
  | succ i => simp [shiftIn, hi, show n + 1 + i = n + (i + 1) by omega]

theorem ushiftRight_eq_zero {w : Word} {n : Nat} (h : w.toNat < 2 ^ n) : w >>> n = 0 := by
  apply BitVec.eq_of_toNat_eq
  rw [BitVec.toNat_ushiftRight, Nat.shiftRight_eq_div_pow, Nat.div_eq_of_lt h]
  rfl

/-- With the bits above the low `n` of `w` read, the `n` low ones complete `w`. -/
theorem readBitsInto_spells (w : Word) (n : Nat) :
    P.Spells (readBitsInto P n (w >>> n)) (bitElems (bitsOf w n)) w := by
  induction n with
  | zero => exact .pure (BitVec.ushiftRight_zero w)
  | succ n ih => exact .bit (by rw [shiftIn_ushiftRight]; exact ih)

theorem readField_spells {w : Word} {n : Nat} (h : w.toNat < 2 ^ n) :
    P.Spells (readField P n) (bitElems (bitsOf w n)) w := by
  have hw := readBitsInto_spells (P := P) w n
  rwa [ushiftRight_eq_zero h] at hw

theorem readWide_spells (split : WideSplit) {hi : Word} {n : Nat} (lo : Byte) (h : hi.toNat < 2 ^ n) :
    P.Spells (readWide P split n) (wideElems split hi n lo) (hi, lo) := by
  cases split with
  | bitsThenByte => exact (readField_spells h).bind (.byte (.pure rfl))

end Readers
end Sys2Proof
end
section
/-! PROOFS. The gamma codes (41_gamma.md): each reader spells the value its writer's codeword is of. -/

namespace Sys2Proof

-- No concurrency, as in the tests.
set_option Elab.async false

section Readers
variable {σ φ : Type} {P : Port σ φ}

@[simp] theorem bitElems_nil : bitElems [] = [] := rfl

@[simp] theorem bitElems_cons (b : Bool) (bits : List Bool) : bitElems (b :: bits) = .bit b :: bitElems bits := rfl

@[simp] theorem bitElems_append (xs ys : List Bool) : bitElems (xs ++ ys) = bitElems xs ++ bitElems ys :=
  List.map_append

/-- Shifted down by its logarithm, a word that is not 0 is its leading bit. -/
theorem ushiftRight_floorLog2 {w : Word} (h : 1 ≤ w) : w >>> floorLog2 w.toNat = 1 := by
  have hne : w.toNat ≠ 0 := by bv_omega
  have hlow : 2 ^ floorLog2 w.toNat ≤ w.toNat := Nat.log2_self_le hne
  have hhigh : w.toNat < 2 ^ (floorLog2 w.toNat + 1) := Nat.lt_log2_self
  apply BitVec.eq_of_toNat_eq
  rw [BitVec.toNat_ushiftRight, Nat.shiftRight_eq_div_pow]
  exact Nat.div_eq_of_lt_le (by simpa using hlow) (by rw [pow_succ'] at hhigh; simpa using hhigh)

theorem floorLog2_lt {w n : Nat} (h0 : w ≠ 0) (h : w < 2 ^ n) : floorLog2 w < n := (Nat.log2_lt h0).mpr h

/-! ### Elias gamma (R151, R153) -/

theorem egZeros_spells {left n k : Nat} (h : n < left) :
    P.Spells (egZeros P left k) (bitElems (List.replicate n false ++ [true])) (some (k + n)) := by
  induction n generalizing left k with
  | zero =>
    obtain ⟨left, rfl⟩ : ∃ m, left = m + 1 := ⟨left - 1, by omega⟩
    exact .bit (.ite_pos rfl (.pure rfl))
  | succ n ih =>
    obtain ⟨left, rfl⟩ : ∃ m, left = m + 1 := ⟨left - 1, by omega⟩
    rw [show k + (n + 1) = k + 1 + n by omega]
    exact .bit (.ite_neg (by simp) (ih (by omega)))

/-- The limit's worth of zeros is the sentinel. -/
theorem egZeros_spells_none (left k : Nat) : P.Spells (egZeros P left k) (zeroElems left) none := by
  induction left generalizing k with
  | zero => exact .pure rfl
  | succ left ih => exact .bit (.ite_neg (by simp) (ih (k + 1)))

/-- The codeword of a word is its logarithm in zeros, its leading bit, and the bits below. -/
theorem bitElems_egCode {w : Word} (h : 1 ≤ w) :
    bitElems (egCode w) = bitElems (List.replicate (floorLog2 w.toNat) false ++ [true]) ++
      bitElems (bitsOf w (floorLog2 w.toNat)) := by
  have hlead : w.getLsbD (floorLog2 w.toNat) = true := by
    simpa using congrArg (·.getLsbD 0) (ushiftRight_floorLog2 h)
  simp [egCode, bitsOf, hlead]

/-- Once the codeword has been read, what is left of `EG_READ` is the test of the value. A limit of 0 is taken as 32. -/
theorem egReadCode_of_reads {cfg : Config} {limit : Nat} {w : Word} {s u : σ} (h32 : limit ≤ 32) (hw : 1 ≤ w)
    (hlimit : w.toNat < 2 ^ (if limit = 0 then 32 else limit)) (h : P.Reads (bitElems (egCode w)) s u) :
    egReadCode P cfg limit s = (fitting cfg w u).map some := by
  have hlog : floorLog2 w.toNat < if limit = 0 then 32 else limit := floorLog2_lt (by bv_omega) hlimit
  have hbits := readBitsInto_spells (P := P) w (floorLog2 w.toNat)
  rw [ushiftRight_floorLog2 hw] at hbits
  rw [bitElems_egCode hw] at h
  obtain ⟨t, hzeros, hrest⟩ := Port.reads_append.mp h
  rw [egReadCode, if_neg (by omega), egZeros_spells hlog s t hzeros, Nat.zero_add]
  change Res.bind (readBitsInto P _ 1 t) _ = _
  rw [hbits t u hrest]
  rfl

theorem egReadCode_spells {cfg : Config} {limit : Nat} {w : Word} (h1 : 1 ≤ limit) (h32 : limit ≤ 32) (hw : 1 ≤ w)
    (hlimit : w.toNat < 2 ^ limit) (hfit : w.toNat < 2 ^ cfg.valueBits) :
    P.Spells (egReadCode P cfg limit) (bitElems (egCode w)) (some w) := by
  intro s u h
  rw [egReadCode_of_reads h32 hw (by rwa [if_neg (by omega)]) h, fitting_ok u hfit]
  rfl

/-- The limit's worth of zeros is the sentinel of `EG_READ`. -/
theorem egReadCode_spells_limit {cfg : Config} {limit : Nat} (h32 : limit ≤ 32) :
    P.Spells (egReadCode P cfg limit) (zeroElems (if limit = 0 then 32 else limit)) none :=
  .ite_neg (by omega) ((egZeros_spells_none _ 0).last (.pure rfl))

theorem egReadCode_spells_none {cfg : Config} {limit : Nat} (h1 : 1 ≤ limit) (h32 : limit ≤ 32) :
    P.Spells (egReadCode P cfg limit) (zeroElems limit) none := by
  simpa only [if_neg (show ¬ limit = 0 by omega)] using egReadCode_spells_limit (P := P) (cfg := cfg) h32

/-! ### Interlaced gamma (R158, R160, R164) -/

/-- Of a value that fits, what has been read before a further pair passes the width test. -/
theorem ushiftRight_succ_lt {w : Word} {width : Nat} (n : Nat) (h : w.toNat < 2 ^ width) :
    (w >>> (n + 1)).toNat < 2 ^ (width - 1) := by
  have hhalf : w.toNat / 2 < 2 ^ (width - 1) := by
    cases width with
    | zero => simp_all
    | succ width => rw [pow_succ] at h; simp; omega
  rw [BitVec.toNat_ushiftRight, Nat.shiftRight_eq_div_pow, pow_succ', ← Nat.div_div_eq_div_mul]
  exact lt_of_le_of_lt (Nat.div_le_self _ _) hhalf

theorem igLoop_spells {width rounds n : Nat} {cont inverted : Bool} {sentinel g : Word} (hfit : g.toNat < 2 ^ width)
    (hs : sentinel = 0 ∨ g < sentinel) (h : n < rounds) :
    P.Spells (igLoop P width cont inverted sentinel rounds (g >>> n)) (bitElems (igPairs cont inverted g n))
      (some g) := by
  induction n generalizing rounds with
  | zero =>
    obtain ⟨rounds, rfl⟩ : ∃ m, rounds = m + 1 := ⟨rounds - 1, by omega⟩
    exact .bit (.ite_pos (by simp) (.pure (by simp)))
  | succ n ih =>
    obtain ⟨rounds, rfl⟩ : ∃ m, rounds = m + 1 := ⟨rounds - 1, by omega⟩
    have hv : shiftIn (g >>> (n + 1)) ((g.getLsbD n ^^ inverted) ^^ inverted) = g >>> n := by
      rw [Bool.xor_assoc, Bool.xor_self, Bool.xor_false, shiftIn_ushiftRight]
    have hbelow : ¬ (sentinel ≠ 0 ∧ sentinel ≤ g >>> n) := by
      have hle : (g >>> n).toNat ≤ g.toNat := by
        rw [BitVec.toNat_ushiftRight]; exact Nat.shiftRight_le _ _
      bv_omega
    refine .bit (.ite_neg (by simp) (.ite_neg (Nat.not_le.mpr (ushiftRight_succ_lt n hfit)) (.bit ?_)))
    dsimp only
    rw [hv]
    exact .ite_neg hbelow (ih (by omega))

/-- A run of `j` ones becomes one of `j + 1`. -/
theorem shiftIn_true_ones {v : Word} {j : Nat} (hv : v.toNat + 1 = 2 ^ j) (hj : j < 32) :
    (shiftIn v true).toNat + 1 = 2 ^ (j + 1) := by
  have hlt : 2 ^ j ≤ 2 ^ 31 := Nat.pow_le_pow_right (by decide) (by omega)
  have hor : 2 * v.toNat ||| 1 = 2 * v.toNat + 1 := (Nat.two_pow_add_eq_or_of_lt (i := 1) (by decide) _).symm
  have hs : (shiftIn v true).toNat = 2 * v.toNat + 1 := by
    rw [← hor]
    simp [shiftIn, Nat.shiftLeft_eq, Nat.mul_comm v.toNat 2]
    rw [Nat.mod_eq_of_lt (by omega)]
  rw [hs, pow_succ]
  omega

/-- Pairs of ones take the value from `2 ^ j - 1` to the sentinel `2 ^ (j + m)` or above at the last of `m + 1` pairs, and not before. -/
theorem igLoop_spells_none {width rounds j m : Nat} {cont : Bool} {sentinel value : Word} (hvalue : value.toNat + 1 = 2 ^ j)
    (hsentinel : sentinel.toNat = 2 ^ (j + m)) (hwidth : j + m < width) (h32 : width ≤ 32) (h : m < rounds) :
    P.Spells (igLoop P width cont false sentinel rounds value)
      (bitElems (List.replicate (m + 1) [cont, true]).flatten) none := by
  induction m generalizing rounds j value with
  | zero =>
    obtain ⟨rounds, rfl⟩ : ∃ m, rounds = m + 1 := ⟨rounds - 1, by omega⟩
    have hhalf : 2 ^ j ≤ 2 ^ (width - 1) := Nat.pow_le_pow_right (by decide) (by omega)
    have hnext := shiftIn_true_ones hvalue (by omega)
    have hreached : sentinel ≠ 0 ∧ sentinel ≤ shiftIn value true := by
      have hpos := Nat.two_pow_pos j
      rw [pow_succ] at hnext
      constructor
      · rintro rfl; simp at hsentinel; omega
      · rw [BitVec.le_def]; simp at hsentinel; omega
    exact .bit (.ite_neg (by simp) (.ite_neg (by omega) (.bit (.ite_pos hreached (.pure rfl)))))
  | succ m ih =>
    obtain ⟨rounds, rfl⟩ : ∃ m, rounds = m + 1 := ⟨rounds - 1, by omega⟩
    have hhalf : 2 ^ j ≤ 2 ^ (width - 1) := Nat.pow_le_pow_right (by decide) (by omega)
    have hnext := shiftIn_true_ones hvalue (by omega)
    rw [show j + (m + 1) = j + 1 + m by omega] at hsentinel hwidth
    have hbelow : ¬ (sentinel ≠ 0 ∧ sentinel ≤ shiftIn value true) := by
      have hle : 2 ^ (j + 1) ≤ 2 ^ (j + 1 + m) := Nat.pow_le_pow_right (by decide) (by omega)
      rw [BitVec.le_def]; omega
    exact .bit (.ite_neg (by simp) (.ite_neg (by omega) (.bit (.ite_neg hbelow (ih hnext hsentinel hwidth (by omega))))))

theorem igReadCode_spells {cfg : Config} {sentinel g : Word} {inverted backwards : Bool} (hg : 1 ≤ g)
    (hfit : g.toNat < 2 ^ cfg.valueBits) (hs : sentinel = 0 ∨ g < sentinel) :
    P.Spells (igReadCode P cfg sentinel inverted backwards) (bitElems (igCode cfg inverted backwards g)) (some g) := by
  have hlog : floorLog2 g.toNat < 32 := floorLog2_lt (by bv_omega) g.isLt
  have hloop := igLoop_spells (P := P) (cont := igTag cfg backwards) (inverted := inverted) hfit hs hlog
  rwa [ushiftRight_floorLog2 hg] at hloop

/-- A sentinel above 1 that is a power of two is spelled by the run of R277. -/
theorem igReadCode_spells_none {cfg : Config} {sentinel : Word} (h2 : 2 ≤ sentinel)
    (hpow : sentinel.toNat = 2 ^ floorLog2 sentinel.toNat) (hfit : sentinel.toNat < 2 ^ cfg.valueBits) :
    P.Spells (igReadCode P cfg sentinel false false)
      (bitElems (List.replicate (floorLog2 sentinel.toNat) [cfg.igCont, true]).flatten) none := by
  have hle : cfg.valueBits ≤ 32 := Nat.min_le_right _ _
  have hlog : floorLog2 sentinel.toNat < cfg.valueBits := floorLog2_lt (by bv_omega) hfit
  have hpos : floorLog2 sentinel.toNat ≠ 0 := by
    intro h0
    rw [h0] at hpow
    bv_omega
  obtain ⟨m, hm⟩ := Nat.exists_eq_succ_of_ne_zero hpos
  rw [hm] at hpow hlog ⊢
  have htag : igTag cfg false = cfg.igCont := Bool.xor_false _
  rw [← htag]
  exact igLoop_spells_none (j := 1) rfl (by rw [hpow, Nat.add_comm]) (by omega) hle (by omega)

/-! ### BitBuster's gamma (R163, R164) -/

theorem bbgOnes_spells {left n k : Nat} (h : n < left) :
    P.Spells (bbgOnes P left k) (bitElems (List.replicate n true ++ [false])) (some (k + n)) := by
  induction n generalizing left k with
  | zero =>
    obtain ⟨left, rfl⟩ : ∃ m, left = m + 1 := ⟨left - 1, by omega⟩
    exact .bit (.ite_neg (by simp) (.pure rfl))
  | succ n ih =>
    obtain ⟨left, rfl⟩ : ∃ m, left = m + 1 := ⟨left - 1, by omega⟩
    rw [show k + (n + 1) = k + 1 + n by omega]
    exact .bit (.ite_pos rfl (ih (by omega)))

theorem bbgOnes_spells_none (left k : Nat) :
    P.Spells (bbgOnes P left k) (bitElems (List.replicate left true)) none := by
  induction left generalizing k with
  | zero => exact .pure rfl
  | succ left ih => exact .bit (.ite_pos rfl (ih (k + 1)))

/-- Once the codeword has been read, what is left of `BBG_READ` is the test of the value, one less than the number spelled. -/
theorem bbgReadCode_of_reads {cfg : Config} {g : Word} {s u : σ} (hg : g ≤ 65534) (h : P.Reads (bitElems (bbgCode g)) s u) :
    bbgReadCode P cfg s = (fitting cfg g u).map some := by
  have hm : (g + 1).toNat = g.toNat + 1 := by bv_omega
  have hw : BitVec.ofNat 32 (g.toNat + 1) = g + 1 := BitVec.eq_of_toNat_eq (by rw [hm]; simp; omega)
  have hlog : floorLog2 (g + 1).toNat < Params.bbGammaLimit :=
    floorLog2_lt (by omega) (by rw [hm, Params.bbGammaLimit]; bv_omega)
  have hbits := readBitsInto_spells (P := P) (g + 1) (floorLog2 (g + 1).toNat)
  rw [ushiftRight_floorLog2 (by bv_omega)] at hbits
  have hcode : bitElems (bbgCode g) = bitElems (List.replicate (floorLog2 (g + 1).toNat) true ++ [false]) ++
      bitElems (bitsOf (g + 1) (floorLog2 (g + 1).toNat)) := by
    simp only [bbgCode, hw, hm, bitElems_append, bitElems_cons, bitElems_nil, List.append_assoc, List.cons_append,
      List.nil_append]
  rw [hcode] at h
  obtain ⟨t, hones, hrest⟩ := Port.reads_append.mp h
  rw [bbgReadCode, bbgOnes_spells hlog s t hones, Nat.zero_add]
  change Res.bind (readBitsInto P _ 1 t) _ = _
  rw [hbits t u hrest]
  change (fitting cfg (g + 1 - 1) u).map some = _
  rw [show g + 1 - 1 = g by bv_omega]

theorem bbgReadCode_spells {cfg : Config} {g : Word} (hg : g ≤ 65534) (hfit : g.toNat < 2 ^ cfg.valueBits) :
    P.Spells (bbgReadCode P cfg) (bitElems (bbgCode g)) (some g) := by
  intro s u h
  rw [bbgReadCode_of_reads hg h, fitting_ok u hfit]
  rfl

theorem bbgReadCode_spells_none {cfg : Config} :
    P.Spells (bbgReadCode P cfg) (bitElems (List.replicate Params.bbGammaLimit true)) none :=
  (bbgOnes_spells_none _ 0).last (.pure rfl)

end Readers
end Sys2Proof
end
section
/-! PROOFS. Every token of the eight codecs is spelled by the elements its encoder writes (30_encoding.md R97 to R105). -/

namespace Sys2Proof

-- No concurrency, as in the tests.
set_option Elab.async false

/-! ## What the parameters give the formats -/

/-- The code of a tier (46_dan1_dan3.md R316). -/
def Dan3Prefix.code (p : Dan3Prefix) : Dan3Tier → List Bool
  | .a => p.tierA
  | .b => p.tierB
  | .c => p.tierC

/-- No tier's code begins another's. -/
def Dan3Prefix.PrefixFree (p : Dan3Prefix) : Prop := ∀ t t', p.code t <+: p.code t' → t = t'

theorem Config.sound_iff {cfg : Config} : cfg.sound = true ↔
    18 ≤ cfg.valBits ∧ 1 ≤ cfg.dan3ZeroLimit ∧ cfg.dan3ZeroLimit ≤ 32 ∧ cfg.dan3Prefix.PrefixFree := by
  have hbegins : ∀ xs ys : List Bool, xs.isPrefixOf ys = false ↔ ¬ xs <+: ys := fun xs ys => by
    rw [← List.isPrefixOf_iff_prefix, Bool.not_eq_true]
  simp only [Config.sound, decide_eq_true_eq, hbegins]
  constructor
  · rintro ⟨hbits, h1, h32, hab, hac, hba, hbc, hca, hcb⟩
    refine ⟨hbits, h1, h32, fun t t' h => ?_⟩
    cases t with
    | a => cases t' with
      | a => rfl
      | b => exact absurd h hab
      | c => exact absurd h hac
    | b => cases t' with
      | a => exact absurd h hba
      | b => rfl
      | c => exact absurd h hbc
    | c => cases t' with
      | a => exact absurd h hca
      | b => exact absurd h hcb
      | c => rfl
  · rintro ⟨hbits, h1, h32, hfree⟩
    exact ⟨hbits, h1, h32, fun h => (nomatch hfree .a .b h), fun h => (nomatch hfree .a .c h),
      fun h => (nomatch hfree .b .a h), fun h => (nomatch hfree .b .c h), fun h => (nomatch hfree .c .a h),
      fun h => (nomatch hfree .c .b h)⟩

theorem Config.valueBits_of_sound {cfg : Config} (h : cfg.sound = true) : 18 ≤ cfg.valueBits := by
  obtain ⟨hbits, -⟩ := Config.sound_iff.mp h
  exact le_min hbits (by decide)

section Readers
variable {σ φ α : Type} {P : Port σ φ}

theorem lt_valueBits_of_sound {cfg : Config} (h : cfg.sound = true) {v : Word} (hv : v.toNat < 2 ^ 18) :
    v.toNat < 2 ^ cfg.valueBits :=
  lt_of_lt_of_le hv (Nat.pow_le_pow_right (by decide) (Config.valueBits_of_sound h))

/-- A field handed to the token's rule in its own width. -/
theorem readField_setWidth_spells {k n : Nat} {u : BitVec k} (hk : k ≤ 32) (h : u.toNat < 2 ^ n) :
    P.Spells (readField P n) (bitElems (bitsOf (u.setWidth 32) n)) (u.setWidth 32) :=
  readField_spells (by rwa [BitVec.toNat_setWidth_of_le hk])

theorem Port.Spells.field {k n : Nat} {u : BitVec k} {f : Word → σ → Res σ φ α} {a : α} (hk : k ≤ 32)
    (h : u.toNat < 2 ^ n) (hf : P.Spells (f (u.setWidth 32)) [] a) :
    P.Spells (fun s => (readField P n s).bind f) (bitElems (bitsOf (u.setWidth 32) n)) a :=
  (readField_setWidth_spells hk h).last hf

/-! ## MDK-RLE and LZF (R97, R98) -/

theorem mdkRaw_spells (c : DecodeCtx) (n : BitVec 7) : P.Spells (decodeMdk P) (encodeElems c (.mdkRaw n)) (.mdkRaw n) :=
  .byte (.ite_neg (by decide +revert) (.ite_pos (by decide +revert) (.pure (by simp))))

theorem mdkRle_spells (c : DecodeCtx) {n : BitVec 7} (v : Byte) (h : n ≠ 0x7F) :
    P.Spells (decodeMdk P) (encodeElems c (.mdkRle n v)) (.mdkRle n v) := by
  have hn : (0x80 ||| n.setWidth 8 : Byte).setWidth 7 = n := by decide +revert
  exact .byte (.ite_neg (by decide +revert) (.ite_neg (by decide +revert) (.byte (.pure (by rw [hn])))))

theorem mdkEnd_spells (c : DecodeCtx) : P.Spells (decodeMdk P) (encodeElems c .mdkEnd) .mdkEnd :=
  .byte (.ite_pos rfl (.pure rfl))

theorem lzfLrun_spells (c : DecodeCtx) (n : BitVec 5) :
    P.Spells (decodeLzf P) (encodeElems c (.lzfLrun n)) (.lzfLrun n) :=
  .byte (.ite_neg (by decide +revert) (.ite_pos (by decide +revert) (.pure (by simp))))

theorem lzfShort_spells (c : DecodeCtx) {control : BitVec 3} (hi : BitVec 5) (lo : Byte) (h1 : 1 ≤ control)
    (h6 : control ≤ 6) : P.Spells (decodeLzf P) (encodeElems c (.lzfShort control hi lo)) (.lzfShort control hi lo) := by
  have hcontrol : (control ++ hi : Byte).extractLsb' 5 3 = control :=
    BitVec.extractLsb'_append_eq_left
  have hhi : (control ++ hi : Byte).setWidth 5 = hi := BitVec.setWidth_append_eq_right
  have hend : ¬ (control ++ hi : Byte) = 0xFF := by
    intro h
    rw [h] at hcontrol
    subst hcontrol
    exact absurd h6 (by decide)
  have h0 : ¬ (control ++ hi : Byte).extractLsb' 5 3 = 0 := by rw [hcontrol]; bv_omega
  have h7 : ¬ (control ++ hi : Byte).extractLsb' 5 3 = 7 := by rw [hcontrol]; bv_omega
  exact .byte (.ite_neg hend (.ite_neg h0 (.ite_neg h7 (.byte (.pure (by rw [hcontrol, hhi]))))))

theorem lzfLong_spells (c : DecodeCtx) {hi : BitVec 5} (len9 lo : Byte) (h : hi ≠ 0x1F) :
    P.Spells (decodeLzf P) (encodeElems c (.lzfLong hi len9 lo)) (.lzfLong hi len9 lo) := by
  have hhi : (0xE0 ||| hi.setWidth 8 : Byte).setWidth 5 = hi := by decide +revert
  exact .byte (.ite_neg (by decide +revert) (.ite_neg (by decide +revert) (.ite_pos (by decide +revert)
    (.byte (.byte (.pure (by rw [hhi])))))))

theorem lzfEnd_spells (c : DecodeCtx) : P.Spells (decodeLzf P) (encodeElems c .lzfEnd) .lzfEnd :=
  .byte (.ite_pos rfl (.pure rfl))

/-! ## Pletter (R99) -/

theorem pltLit_spells (c : DecodeCtx) (v : Byte) : P.Spells (decodePlt P c) (encodeElems c (.pltLit v)) (.pltLit v) :=
  .bit (.ite_pos rfl (.byte (.pure rfl)))

theorem pltMatch_spells {c : DecodeCtx} {g : Word} {bo : Byte} {extra : BitVec 6} (hg : 1 ≤ g)
    (hfit : g.toNat < 2 ^ c.cfg.valueBits) (hs : c.sentinel = 0 ∨ g < c.sentinel) (hshort : bo < 128 → extra = 0)
    (hextra : extra.toNat < 2 ^ Params.pletterExtra c.q.toNat) :
    P.Spells (decodePlt P c) (encodeElems c (.pltMatch g bo extra)) (.pltMatch g bo extra) := by
  refine .bit (.ite_neg (by decide) ((igReadCode_spells hg hfit hs).bind (.byte ?_)))
  by_cases hbo : bo < 128
  · rw [if_pos hbo]
    exact .ite_pos hbo (.pure (by rw [hshort hbo]))
  · rw [if_neg hbo]
    exact .ite_neg hbo (.field (by decide) hextra (.pure (by simp)))

/-- All but the last one-bit of `PLT.END` (45_pletter.md R277). -/
theorem pltEnd_spells {c : DecodeCtx} (h2 : 2 ≤ c.sentinel)
    (hpow : c.sentinel.toNat = 2 ^ floorLog2 c.sentinel.toNat) (hfit : c.sentinel.toNat < 2 ^ c.cfg.valueBits) :
    P.Spells (decodePlt P c)
      (.bit true :: bitElems (List.replicate (floorLog2 c.sentinel.toNat) [c.cfg.igCont, true]).flatten) .pltEnd :=
  .bit (.ite_neg (by decide) ((igReadCode_spells_none h2 hpow hfit).last (.pure rfl)))

/-! ## DAN1 (R100, R101) -/

theorem dan1Near_tier1_spells (far : Bool) (u : BitVec 1) :
    P.Spells (dan1Near P far) (.bit (!far) :: bitElems (bitsOf (u.setWidth 32) (Params.dan1Width 1))) (.tier1 u) :=
  .bit (.ite_neg (by simp) (.field (by decide) u.isLt (.pure (by simp))))

theorem dan1Near_tier2_spells (far : Bool) (u : BitVec 4) :
    P.Spells (dan1Near P far) (.bit far :: bitElems (bitsOf (u.setWidth 32) (Params.dan1Width 2))) (.tier2 u) :=
  .bit (.ite_pos rfl (.field (by decide) u.isLt (.pure (by simp))))

/-- A length above 1 has selector `s2` before the two nearest tiers. -/
theorem dan1Mid_near_spells {far : Bool} {len : Word} {es : List Elem} {off : Dan1Offset}
    (h : P.Spells (dan1Near P far) es off) :
    P.Spells (dan1Mid P far len) ((if 2 ≤ len then [.bit (!far)] else []) ++ es) off := by
  by_cases h2 : 2 ≤ len
  · rw [if_pos h2]
    exact .ite_pos h2 (.bit (.ite_neg (by simp) h))
  · rw [if_neg h2]
    exact .ite_neg h2 h

theorem dan1Mid_tier3_spells {far : Bool} {len : Word} (v : Byte) (h2 : 2 ≤ len) :
    P.Spells (dan1Mid P far len) [.bit far, .byte v] (.tier3 v) :=
  .ite_pos h2 (.bit (.ite_pos rfl (.byte (.pure rfl))))

/-- A length above 2 has selector `s3` before the tiers but the farthest. -/
theorem dan1OffsetRead_mid_spells {cfg : Config} {len : Word} {es : List Elem} {off : Dan1Offset}
    (h : P.Spells (dan1Mid P cfg.dan1SelFar len) es off) :
    P.Spells (dan1OffsetRead P cfg len) ((if 3 ≤ len then [.bit (!cfg.dan1SelFar)] else []) ++ es) off := by
  by_cases h3 : 3 ≤ len
  · rw [if_pos h3]
    exact .ite_pos h3 (.bit (.ite_neg (by simp) h))
  · rw [if_neg h3]
    exact .ite_neg h3 h

theorem dan1OffsetRead_spells {cfg : Config} {len : Word} {off : Dan1Offset} (h : off.fits len = true) :
    P.Spells (dan1OffsetRead P cfg len) (dan1OffsetElems cfg len off) off := by
  cases off with
  | tier1 u =>
    simpa [dan1OffsetElems] using dan1OffsetRead_mid_spells (dan1Mid_near_spells (dan1Near_tier1_spells _ u))
  | tier2 u =>
    simpa [dan1OffsetElems] using dan1OffsetRead_mid_spells (dan1Mid_near_spells (dan1Near_tier2_spells _ u))
  | tier3 v => exact dan1OffsetRead_mid_spells (dan1Mid_tier3_spells v (of_decide_eq_true h))
  | tier4 hi lo =>
    have hhi : (hi.setWidth 32).toNat < 2 ^ (Params.dan1Width 4 - 8) := by
      rw [BitVec.toNat_setWidth_of_le (by decide)]; exact hi.isLt
    exact .ite_pos (of_decide_eq_true h)
      (.bit (.ite_pos rfl ((readWide_spells cfg.wideSplit lo hhi).last (.pure (by simp)))))

theorem dan1Lit_spells (c : DecodeCtx) (v : Byte) :
    P.Spells (decodeDan1 P c) (encodeElems c (.dan1Lit v)) (.dan1Lit v) :=
  .bit (.ite_pos rfl (.byte (.pure rfl)))

theorem dan1Match_spells {c : DecodeCtx} {len : Word} {off : Dan1Offset} (hc : c.cfg.sound = true) (h1 : 1 ≤ len)
    (hlen : len ≤ 65535) (hoff : off.fits len = true) :
    P.Spells (decodeDan1 P c) (encodeElems c (.dan1Match len off)) (.dan1Match len off) := by
  have hlimit : len.toNat < 2 ^ 16 := by bv_omega
  have hlength := egReadCode_spells (P := P) (limit := Params.zeroLimit16) (by decide) (by decide) h1 hlimit
    (lt_valueBits_of_sound hc (by omega))
  exact .bit (.ite_neg (by decide) (hlength.bind ((dan1OffsetRead_spells hoff).last (.pure rfl))))

theorem dan1Raw_spells (c : DecodeCtx) (n : Byte) :
    P.Spells (decodeDan1 P c) (encodeElems c (.dan1Raw n)) (.dan1Raw n) :=
  .bit (.ite_neg (by decide) ((egReadCode_spells_none (by decide) (by decide)).bind (.bit (.ite_pos rfl (.byte (.pure rfl))))))

theorem dan1End_spells (c : DecodeCtx) : P.Spells (decodeDan1 P c) (encodeElems c .dan1End) .dan1End :=
  .bit (.ite_neg (by decide) ((egReadCode_spells_none (by decide) (by decide)).bind (.bit (.ite_neg (by decide) (.pure rfl)))))

/-! ## DAN3 (R102) -/

theorem Dan3Prefix.eq_code_of_tierOf {p : Dan3Prefix} {bits : List Bool} {t : Dan3Tier} (h : p.tierOf bits = some t) :
    bits = p.code t := by
  unfold Dan3Prefix.tierOf at h
  split_ifs at h with hb ha hc
  · cases h; exact hb
  · cases h; exact ha
  · cases h; exact hc

theorem Dan3Prefix.tierOf_code {p : Dan3Prefix} (hp : p.PrefixFree) (t : Dan3Tier) : p.tierOf (p.code t) = some t := by
  cases h : p.tierOf (p.code t) with
  | some t' => rw [hp t t' (Dan3Prefix.eq_code_of_tierOf h ▸ List.prefix_rfl)]
  | none =>
    unfold Dan3Prefix.tierOf at h
    split_ifs at h with hb ha hc
    cases t with
    | a => exact absurd rfl ha
    | b => exact absurd rfl hb
    | c => exact absurd rfl hc

/-- A code that still has bits to come is no tier's. -/
theorem Dan3Prefix.tierOf_eq_none {p : Dan3Prefix} (hp : p.PrefixFree) {t : Dan3Tier} {pre suf : List Bool}
    (h : pre ++ suf = p.code t) (hsuf : suf ≠ []) : p.tierOf pre = none := by
  by_contra hne
  obtain ⟨t', ht'⟩ := Option.ne_none_iff_exists'.mp hne
  have hpre := Dan3Prefix.eq_code_of_tierOf ht'
  obtain rfl := hp t' t ⟨suf, by rw [← hpre, h]⟩
  rw [← hpre] at h
  exact hsuf (List.append_right_eq_self.mp h)

/-- With `pre` of a tier's code read, the rest of it completes the code. -/
theorem tierRead_spells {p : Dan3Prefix} (hp : p.PrefixFree) {t : Dan3Tier} {n : Nat} {pre suf : List Bool}
    (h : pre ++ suf = p.code t) (hsuf : suf ≠ []) (hn : suf.length ≤ n) :
    P.Spells (tierRead P p n pre) (bitElems suf) t := by
  induction suf generalizing n pre with
  | nil => exact absurd rfl hsuf
  | cons b suf ih =>
    obtain ⟨n, rfl⟩ : ∃ m, n = m + 1 := ⟨n - 1, by simp at hn; omega⟩
    have hstep : pre ++ [b] ++ suf = p.code t := by simpa using h
    refine .bit ?_
    by_cases hlast : suf = []
    · subst hlast
      rw [List.append_nil] at hstep
      rw [hstep, Dan3Prefix.tierOf_code hp]
      exact .pure rfl
    · rw [Dan3Prefix.tierOf_eq_none hp hstep hlast]
      exact ih hstep hlast (by simp at hn; omega)

theorem Dan3Prefix.code_ne_nil {p : Dan3Prefix} (hp : p.PrefixFree) (t : Dan3Tier) : p.code t ≠ [] := by
  intro h
  have hfirst : ∀ t', t = t' := fun t' => hp t t' (h ▸ List.nil_prefix)
  have := (hfirst .a).symm.trans (hfirst .b)
  cases this

theorem Dan3Prefix.code_length_le (p : Dan3Prefix) (t : Dan3Tier) : (p.code t).length ≤ p.maxLen := by
  cases t with
  | a => exact le_max_left _ _
  | b => exact (le_max_left _ _).trans (le_max_right _ _)
  | c => exact (le_max_right _ _).trans (le_max_right _ _)

theorem tierRead_code_spells {p : Dan3Prefix} (hp : p.PrefixFree) (t : Dan3Tier) :
    P.Spells (tierRead P p p.maxLen []) (bitElems (p.code t)) t :=
  tierRead_spells hp rfl (p.code_ne_nil hp t) (p.code_length_le t)

/-- The tier's high bits are as many as the subset has (46_dan1_dan3.md R316). -/
def Dan3Offset.InSubset (subset : BitVec 3) : Dan3Offset → Prop
  | .tierC hi _ => hi.toNat < 2 ^ (subset.toNat + 1)
  | _ => True

theorem dan3Offset1Read_spells (c : DecodeCtx) {off : Dan3Offset} (h : off.fits 1 = true) :
    P.Spells (dan3Offset1Read P) (dan3OffsetElems c off) off := by
  cases off with
  | one => exact .bit (.ite_neg (by decide) (.pure rfl))
  | two u => exact .bit (.ite_pos rfl (.field (by decide) u.isLt (.pure (by simp))))
  | tierA | tierB | tierC => exact absurd h (by simp [Dan3Offset.fits])

theorem dan3OffsetRead_spells {c : DecodeCtx} {len : Word} {off : Dan3Offset} (hc : c.cfg.sound = true)
    (h : off.fits len = true) (h1 : len ≠ 1) (hsub : off.InSubset c.subset) :
    P.Spells (dan3OffsetRead P c) (dan3OffsetElems c off) off := by
  obtain ⟨-, -, -, hfree⟩ := Config.sound_iff.mp hc
  cases off with
  | one | two => exact absurd (of_decide_eq_true h) h1
  | tierA u => exact (tierRead_code_spells hfree .a).bind (.field (by decide) u.isLt (.pure (by simp)))
  | tierB v => exact (tierRead_code_spells hfree .b).bind (.byte (.pure rfl))
  | tierC hi lo =>
    have hhi : (hi.setWidth 32).toNat < 2 ^ (c.subset.toNat + 1) := by
      rw [BitVec.toNat_setWidth_of_le (by decide)]; exact hsub
    exact (tierRead_code_spells hfree .c).bind
      ((readWide_spells c.cfg.wideSplit lo hhi).last (.pure (by simp)))

theorem dan3Lit_spells (c : DecodeCtx) (v : Byte) :
    P.Spells (decodeDan3 P c) (encodeElems c (.dan3Lit v)) (.dan3Lit v) :=
  .bit (.ite_pos rfl (.byte (.pure rfl)))

theorem dan3Match_spells {c : DecodeCtx} {len : Word} {off : Dan3Offset} (hc : c.cfg.sound = true) (h1 : 1 ≤ len)
    (hlen : len.toNat < 2 ^ min c.cfg.dan3ZeroLimit c.cfg.valueBits) (hoff : off.fits len = true)
    (hsub : off.InSubset c.subset) :
    P.Spells (decodeDan3 P c) (encodeElems c (.dan3Match len off)) (.dan3Match len off) := by
  obtain ⟨-, hlimit1, hlimit32, -⟩ := Config.sound_iff.mp hc
  have hlength := egReadCode_spells (P := P) hlimit1 hlimit32 h1
    (lt_of_lt_of_le hlen (Nat.pow_le_pow_right (by decide) (min_le_left _ _)))
    (lt_of_lt_of_le hlen (Nat.pow_le_pow_right (by decide) (min_le_right _ _)))
  refine .bit (.ite_neg (by decide) (hlength.bind (.last ?_ (.pure rfl))))
  by_cases hone : len = 1
  · subst hone
    exact .ite_pos rfl (dan3Offset1Read_spells c hoff)
  · exact .ite_neg hone (dan3OffsetRead_spells hc hoff hone hsub)

theorem dan3Raw_spells {c : DecodeCtx} (hc : c.cfg.sound = true) (n : Byte) :
    P.Spells (decodeDan3 P c) (encodeElems c (.dan3Raw n)) (.dan3Raw n) := by
  obtain ⟨-, hlimit1, hlimit32, -⟩ := Config.sound_iff.mp hc
  exact .bit (.ite_neg (by decide) ((egReadCode_spells_none hlimit1 hlimit32).bind (.bit (.ite_pos rfl (.byte (.pure rfl))))))

theorem dan3End_spells {c : DecodeCtx} (hc : c.cfg.sound = true) :
    P.Spells (decodeDan3 P c) (encodeElems c .dan3End) .dan3End := by
  obtain ⟨-, hlimit1, hlimit32, -⟩ := Config.sound_iff.mp hc
  exact .bit (.ite_neg (by decide) ((egReadCode_spells_none hlimit1 hlimit32).bind (.bit (.ite_neg (by decide) (.pure rfl)))))

/-! ## ZX7 (R103) -/

theorem zx7Lit_spells (c : DecodeCtx) (v : Byte) : P.Spells (decodeZx7 P c) (encodeElems c (.zx7Lit v)) (.zx7Lit v) :=
  .bit (.ite_pos rfl (.byte (.pure rfl)))

theorem zx7Match_spells {c : DecodeCtx} {g : Word} {bo : Byte} {high : BitVec 4} (hc : c.cfg.sound = true) (h1 : 1 ≤ g)
    (hg : g ≤ 65535) (hshort : bo < 128 → high = 0) :
    P.Spells (decodeZx7 P c) (encodeElems c (.zx7Match g bo high)) (.zx7Match g bo high) := by
  have hlimit : g.toNat < 2 ^ 16 := by bv_omega
  have hlength := egReadCode_spells (P := P) (limit := Params.zeroLimit16) (by decide) (by decide) h1 hlimit
    (lt_valueBits_of_sound hc (by omega))
  refine .bit (.ite_neg (by decide) (hlength.bind (.byte ?_)))
  by_cases hbo : bo < 128
  · rw [if_pos hbo]
    exact .ite_pos hbo (.pure (by rw [hshort hbo]))
  · rw [if_neg hbo]
    exact .ite_neg hbo (.field (by decide) high.isLt (.pure (by simp)))

theorem zx7End_spells (c : DecodeCtx) : P.Spells (decodeZx7 P c) (encodeElems c .zx7End) .zx7End :=
  .bit (.ite_neg (by decide) ((egReadCode_spells_none (by decide) (by decide)).bind (.bit (.ite_pos rfl (.pure rfl)))))

/-! ## ZX0 (R104) -/

theorem zx0LengthRead_spells {c : DecodeCtx} {n : Word} (h1 : 1 ≤ n) (hfit : n.toNat < 2 ^ c.cfg.valueBits) :
    P.Spells (zx0LengthRead P c) (bitElems (igCode c.cfg false c.bw n)) n :=
  (igReadCode_spells h1 hfit (.inl rfl)).last (.pure rfl)

theorem zx0Match_spells {c : DecodeCtx} {msb : Word} (bo : Byte) (hc : c.cfg.sound = true) (h1 : 1 ≤ msb)
    (h255 : msb ≤ 255) : P.Spells (decodeZx0New P c) (encodeElems c (.zx0Match msb bo)) (.zx0Match msb bo) := by
  have hend : msb ≠ Params.zx0EofMsb := by rw [Params.zx0EofMsb]; bv_omega
  have habove : ¬ Params.zx0EofMsb < msb := by rw [Params.zx0EofMsb]; bv_omega
  exact (igReadCode_spells h1 (lt_valueBits_of_sound hc (by bv_omega)) (.inl rfl)).bind
    (.ite_neg hend (.ite_neg habove (.byte (.pure rfl))))

theorem zx0End_spells {c : DecodeCtx} (hc : c.cfg.sound = true) :
    P.Spells (decodeZx0New P c) (encodeElems c .zx0End) .zx0End :=
  (igReadCode_spells (by decide) (lt_valueBits_of_sound hc (by decide)) (.inl rfl)).last (.ite_pos rfl (.pure rfl))

/-! ## BitBuster (R105) -/

theorem bbLen_spells (c : DecodeCtx) (n : Word) : P.Spells (decodeBbLen P) (encodeElems c (.bbLen n)) (.bbLen n) := by
  have hbytes : n.extractLsb' 24 8 ++ n.extractLsb' 16 8 ++ n.extractLsb' 8 8 ++ n.setWidth 8 = n := by
    rw [BitVec.setWidth_eq_extractLsb' (by decide), BitVec.extractLsb'_append_extractLsb'_eq_extractLsb' (by rfl),
      BitVec.extractLsb'_append_extractLsb'_eq_extractLsb' (by rfl),
      BitVec.extractLsb'_append_extractLsb'_eq_extractLsb' (by rfl)]
    exact BitVec.extractLsb'_eq_self
  exact .byte (.byte (.byte (.byte (.pure (by rw [hbytes])))))

theorem bbLit_spells (c : DecodeCtx) (v : Byte) : P.Spells (decodeBb P c) (encodeElems c (.bbLit v)) (.bbLit v) :=
  .bit (.ite_pos rfl (.byte (.pure rfl)))

theorem bbMatch_spells {c : DecodeCtx} {d : Byte} {hi : BitVec 4} {g : Word} (hc : c.cfg.sound = true)
    (hshort : d < 128 → hi = 0) (hg : g ≤ 65534) :
    P.Spells (decodeBb P c) (encodeElems c (.bbMatch d hi g)) (.bbMatch d hi g) := by
  have hgamma : P.Spells (decodeBbGamma P c d hi) (bitElems (bbgCode g)) (.bbMatch d hi g) :=
    (bbgReadCode_spells hg (lt_valueBits_of_sound hc (by bv_omega))).last (.pure rfl)
  refine .bit (.ite_neg (by decide) (.byte ?_))
  by_cases hd : d < 128
  · rw [if_pos hd]
    exact .ite_pos hd (hshort hd ▸ hgamma)
  · rw [if_neg hd]
    refine .ite_neg hd ((readField_setWidth_spells (by decide) hi.isLt).bind ?_)
    rwa [BitVec.setWidth_setWidth_of_le _ (by decide), BitVec.setWidth_eq]

/-- All but the terminating zero of `BB.END` (49_bitbuster.md R386). -/
theorem bbEnd_spells (c : DecodeCtx) :
    P.Spells (decodeBb P c) (.bit true :: .byte 0x00 :: bitElems (List.replicate Params.bbGammaLimit true)) .bbEnd :=
  .bit (.ite_neg (by decide) (.byte (.ite_pos (by decide) (bbgReadCode_spells_none.last (.ite_pos rfl (.pure rfl))))))

end Readers
end Sys2Proof
end
section
/-! PROOFS. The round trip of every token, through any port (O54) and through the machine's bit reader (O55). -/

namespace Sys2Proof

-- No concurrency, as in the tests.
set_option Elab.async false

section Readers
variable {σ φ : Type} {P : Port σ φ}

/-! ## Every token but the DAN3 preamble, which the port counts -/

/-! ### What a token that is encodable in a job satisfies -/

theorem wf_of_encodableIn {c : DecodeCtx} {i : Instr} (h : encodableIn c i = true) : i.wf = true := by
  obtain ⟨hwf, -⟩ := (Bool.and_eq_true _ _).mp h
  exact hwf

theorem encodableIn_pltMatch {c : DecodeCtx} {g : Word} {bo : Byte} {extra : BitVec 6}
    (h : encodableIn c (.pltMatch g bo extra) = true) :
    (1 ≤ g ∧ (bo < 128 → extra = 0)) ∧ (c.sentinel = 0 ∨ g < c.sentinel) ∧ g.toNat < 2 ^ c.cfg.valueBits ∧
      extra.toNat < 2 ^ Params.pletterExtra c.q.toNat := by
  obtain ⟨hwf, hjob⟩ := (Bool.and_eq_true _ _).mp h
  exact ⟨of_decide_eq_true hwf, of_decide_eq_true hjob⟩

theorem encodableIn_pltEnd {c : DecodeCtx} (h : encodableIn c .pltEnd = true) :
    c.cfg.igCont = true ∧ 2 ≤ c.sentinel ∧ c.sentinel.toNat = 2 ^ floorLog2 c.sentinel.toNat ∧
      c.sentinel.toNat < 2 ^ c.cfg.valueBits := by
  obtain ⟨-, hjob⟩ := (Bool.and_eq_true _ _).mp h
  exact of_decide_eq_true hjob

theorem encodableIn_dan3Match {c : DecodeCtx} {len : Word} {off : Dan3Offset}
    (h : encodableIn c (.dan3Match len off) = true) :
    (1 ≤ len ∧ off.fits len = true) ∧ len.toNat < 2 ^ min c.cfg.dan3ZeroLimit c.cfg.valueBits ∧
      off.InSubset c.subset := by
  obtain ⟨hwf, hjob⟩ := (Bool.and_eq_true _ _).mp h
  refine ⟨of_decide_eq_true hwf, ?_⟩
  cases off with
  | one | two | tierA | tierB => exact ⟨of_decide_eq_true hjob, trivial⟩
  | tierC hi lo =>
    have hfields : len.toNat < 2 ^ min c.cfg.dan3ZeroLimit c.cfg.valueBits ∧ hi.toNat < 2 ^ (c.subset.toNat + 1) :=
      of_decide_eq_true hjob
    exact hfields

theorem encodableIn_zx0Lits {c : DecodeCtx} {n : Word} (h : encodableIn c (.zx0Lits n) = true) :
    1 ≤ n ∧ n.toNat < 2 ^ c.cfg.valueBits := by
  obtain ⟨hwf, hjob⟩ := (Bool.and_eq_true _ _).mp h
  exact ⟨of_decide_eq_true hwf, of_decide_eq_true hjob⟩

theorem encodableIn_zx0Rep {c : DecodeCtx} {n : Word} (h : encodableIn c (.zx0Rep n) = true) :
    1 ≤ n ∧ n.toNat < 2 ^ c.cfg.valueBits := by
  obtain ⟨hwf, hjob⟩ := (Bool.and_eq_true _ _).mp h
  exact ⟨of_decide_eq_true hwf, of_decide_eq_true hjob⟩

/-- A token of which nothing stays unread, the DAN3 preamble aside. -/
theorem decodeElement_spells_encodeElems {c : DecodeCtx} {i : Instr} {e : Element} (hc : c.cfg.sound = true)
    (hi : encodableIn c i = true) (he : elementOf i = some e) (hsubset : ∀ n, i ≠ .dan3Subset n) (hplt : i ≠ .pltEnd)
    (hbb : i ≠ .bbEnd) : P.Spells (decodeElement P c e) (encodeElems c i) i := by
  have hwf := wf_of_encodableIn hi
  cases i with cases he
  | mdkRaw n => exact mdkRaw_spells c n
  | mdkRle n v => exact mdkRle_spells c v (of_decide_eq_true hwf)
  | mdkEnd => exact mdkEnd_spells c
  | lzfLrun n => exact lzfLrun_spells c n
  | lzfShort control hi' lo =>
    obtain ⟨h1, h6⟩ : 1 ≤ control ∧ control ≤ 6 := of_decide_eq_true hwf
    exact lzfShort_spells c hi' lo h1 h6
  | lzfLong hi' len9 lo => exact lzfLong_spells c len9 lo (of_decide_eq_true hwf)
  | lzfEnd => exact lzfEnd_spells c
  | pltQ u => exact .field (by decide) u.isLt (.pure (by simp))
  | pltFirst v => exact .byte (.pure rfl)
  | pltLit v => exact pltLit_spells c v
  | pltMatch g bo extra =>
    obtain ⟨⟨h1, hshort⟩, hs, hfit, hextra⟩ := encodableIn_pltMatch hi
    exact pltMatch_spells h1 hfit hs hshort hextra
  | pltEnd => exact absurd rfl hplt
  | dan1First v => exact .byte (.pure rfl)
  | dan1Lit v => exact dan1Lit_spells c v
  | dan1Match len off =>
    obtain ⟨h1, hlen, hoff⟩ : 1 ≤ len ∧ len ≤ 65535 ∧ off.fits len = true := of_decide_eq_true hwf
    exact dan1Match_spells hc h1 hlen hoff
  | dan1Raw n => exact dan1Raw_spells c n
  | dan1End => exact dan1End_spells c
  | dan3Subset n => exact absurd rfl (hsubset n)
  | dan3First v => exact .byte (.pure rfl)
  | dan3Lit v => exact dan3Lit_spells c v
  | dan3Match len off =>
    obtain ⟨⟨h1, hoff⟩, hlen, hsub⟩ := encodableIn_dan3Match hi
    exact dan3Match_spells hc h1 hlen hoff hsub
  | dan3Raw n => exact dan3Raw_spells hc n
  | dan3End => exact dan3End_spells hc
  | zx7First v => exact .byte (.pure rfl)
  | zx7Lit v => exact zx7Lit_spells c v
  | zx7Match g bo high =>
    obtain ⟨h1, hg, hshort⟩ : 1 ≤ g ∧ g ≤ 65535 ∧ (bo < 128 → high = 0) := of_decide_eq_true hwf
    exact zx7Match_spells hc h1 hg hshort
  | zx7End => exact zx7End_spells c
  | zx0Lits n =>
    obtain ⟨h1, hfit⟩ := encodableIn_zx0Lits hi
    exact (zx0LengthRead_spells h1 hfit).last (.pure rfl)
  | zx0Rep n =>
    obtain ⟨h1, hfit⟩ := encodableIn_zx0Rep hi
    exact (zx0LengthRead_spells h1 hfit).last (.pure rfl)
  | zx0Match msb bo =>
    obtain ⟨h1, h255⟩ : 1 ≤ msb ∧ msb ≤ 255 := of_decide_eq_true hwf
    exact zx0Match_spells bo hc h1 h255
  | zx0End => exact zx0End_spells hc
  | bbLen n => exact bbLen_spells c n
  | bbLit v => exact bbLit_spells c v
  | bbMatch d hi' g =>
    obtain ⟨hshort, hg⟩ : (d < 128 → hi' = 0) ∧ g ≤ 65534 := of_decide_eq_true hwf
    exact bbMatch_spells hc hshort hg
  | bbEnd => exact absurd rfl hbb

/-- The elements the decoder reads of a token are those the encoder writes, up to what stays unread. -/
theorem decodeElement_spells {c : DecodeCtx} {i : Instr} {e : Element} {es : List Elem} (hc : c.cfg.sound = true)
    (hi : encodableIn c i = true) (he : elementOf i = some e) (hes : encodeElems c i = es ++ unreadElems i)
    (hsubset : ∀ n, i ≠ .dan3Subset n) : P.Spells (decodeElement P c e) es i := by
  by_cases hplt : i = .pltEnd
  · subst hplt
    cases he
    obtain ⟨-, h2, hpow, hfit⟩ := encodableIn_pltEnd hi
    have hread : .bit true :: bitElems (List.replicate (floorLog2 c.sentinel.toNat) [c.cfg.igCont, true]).flatten = es :=
      List.append_cancel_right (bs := [.bit true]) (by simpa [encodeElems, unreadElems] using hes)
    exact hread ▸ pltEnd_spells h2 hpow hfit
  by_cases hbb : i = .bbEnd
  · subst hbb
    cases he
    have hread : .bit true :: .byte 0x00 :: bitElems (List.replicate Params.bbGammaLimit true) = es :=
      List.append_cancel_right (bs := [.bit false]) (by simpa [encodeElems, unreadElems] using hes)
    exact hread ▸ bbEnd_spells c
  obtain rfl : encodeElems c i = es := by simpa [unreadElems, hplt, hbb] using hes
  exact decodeElement_spells_encodeElems hc hi he hsubset hplt hbb

/-- What stays unread stands at the end of the token's elements. -/
theorem exists_encodeElems_eq (c : DecodeCtx) (i : Instr) : ∃ es, encodeElems c i = es ++ unreadElems i := by
  by_cases hplt : i = .pltEnd
  · subst hplt
    exact ⟨.bit true :: bitElems (List.replicate (floorLog2 c.sentinel.toNat) [c.cfg.igCont, true]).flatten,
      by simp [encodeElems, unreadElems]⟩
  by_cases hbb : i = .bbEnd
  · subst hbb
    exact ⟨.bit true :: .byte 0x00 :: bitElems (List.replicate Params.bbGammaLimit true),
      by simp [encodeElems, unreadElems]⟩
  exact ⟨encodeElems c i, by simp [unreadElems, hplt, hbb]⟩

/-! ## The DAN3 preamble (46_dan1_dan3.md R311) -/

/-- What the port records of a preamble's ones does not show in the bits it delivers. -/
def Port.OneKeepsBits (P : Port σ φ) : Prop :=
  ∀ {s t : σ} {b : Bool}, P.bit s = .ok b t → P.bit (P.one s) = .ok b (P.one t)

theorem Port.OneKeepsBits.reads (hP : P.OneKeepsBits) {bits : List Bool} {s u : σ} (h : P.Reads (bitElems bits) s u) :
    P.Reads (bitElems bits) (P.one s) (P.one u) := by
  induction bits generalizing s with
  | nil => exact congrArg P.one h
  | cons b bits ih =>
    obtain ⟨t, hb, ht⟩ := h
    exact ⟨P.one t, hP hb, ih ht⟩

/-- `m` ones and a zero, with `left` more ones allowed: the count, each one recorded. -/
theorem subsetRead_reads (hP : P.OneKeepsBits) {left m : Nat} {s u : σ} (hm : m ≤ left) (h7 : left ≤ 7)
    (h : P.Reads (bitElems (List.replicate m true ++ [false])) s u) :
    subsetRead P left s = .ok (7 - left + m) (P.one^[m] u) := by
  induction m generalizing left s u with
  | zero =>
    obtain ⟨t, hb, rfl⟩ := h
    cases left with
    | zero => simp [subsetRead, hb]
    | succ left => simp [subsetRead, hb]
  | succ m ih =>
    obtain ⟨left, rfl⟩ : ∃ n, left = n + 1 := ⟨left - 1, by omega⟩
    obtain ⟨t, hb, ht⟩ := h
    have hrest := ih (left := left) (by omega) (by omega) (hP.reads ht)
    rw [show 7 - (left + 1) + (m + 1) = 7 - left + m by omega, Function.iterate_succ_apply, ← hrest]
    simp [subsetRead, hb]

/-- The preamble's bits are as many ones as the subset says, and a zero. -/
theorem encodeElems_dan3Subset (c : DecodeCtx) (n : BitVec 3) :
    encodeElems c (.dan3Subset n) = bitElems (List.replicate n.toNat true ++ [false]) :=
  congrArg bitElems (by decide +revert : bitsOf 0xFE (n.toNat + 1) = List.replicate n.toNat true ++ [false])

/-! ## Any token, through any port -/

/-- The ones of a preamble, which the port records. -/
def Instr.preambleOnes : Instr → Nat
  | .dan3Subset n => n.toNat
  | _ => 0

theorem Instr.preambleOnes_eq_zero {i : Instr} (h : ∀ n, i ≠ .dan3Subset n) : i.preambleOnes = 0 := by
  unfold preambleOnes
  split
  · exact absurd rfl (h _)
  · rfl

/-- THE ROUND TRIP: where the port delivers what is read of a token's elements, the decoder answers the token and stands behind them. -/
theorem decodeElement_of_reads (hP : P.OneKeepsBits) {c : DecodeCtx} {i : Instr} {e : Element} {es : List Elem} {s u : σ}
    (hc : c.cfg.sound = true) (hi : encodableIn c i = true) (he : elementOf i = some e)
    (hes : encodeElems c i = es ++ unreadElems i) (h : P.Reads es s u) :
    decodeElement P c e s = .ok i (P.one^[i.preambleOnes] u) := by
  by_cases hsubset : ∃ n, i = .dan3Subset n
  · obtain ⟨n, rfl⟩ := hsubset
    cases he
    obtain rfl : encodeElems c (.dan3Subset n) = es := by simpa [unreadElems] using hes
    rw [encodeElems_dan3Subset] at h
    have hread := subsetRead_reads hP (by omega) le_rfl h
    rw [decodeElement, hread, Instr.preambleOnes]
    simp
  · have hsubset : ∀ n, i ≠ .dan3Subset n := fun n hn => hsubset ⟨n, hn⟩
    rw [Instr.preambleOnes_eq_zero hsubset]
    exact decodeElement_spells hc hi he hes hsubset s u h

end Readers

/-! ## The port over elements -/

/-- Settles O54: a list of elements delivers its own elements, so the round trip applies to the read part of a token's. -/
theorem tokenRoundTrip : Obligations.TokenRoundTrip := by
  intro c i e rest hc hi he
  obtain ⟨es, hes⟩ := exists_encodeElems_eq c i
  have hone : (elemPort Unit).OneKeepsBits := fun h => h
  have hreads : (elemPort Unit).Reads es (encodeElems c i ++ rest) (unreadElems i ++ rest) := by
    rw [hes, List.append_assoc]
    exact elemPort_reads es _
  rw [decodeElement_of_reads hone hc hi he hes hreads, Function.iterate_fixed rfl]

namespace Machine

/-! ## The machine's bit reader -/

/-- The reader behind a list of elements is what the machine's port delivers (40_bitio.md R126, R127). -/
theorem statePort_reads_of_reads {es : List Elem} {s t : State} (h : s.reads es t) : statePort.Reads es s t := by
  induction es generalizing s with
  | nil => exact Option.some.inj h
  | cons e es ih =>
    cases e with
    | bit b =>
      simp only [State.reads, readElems] at h
      split at h
      · next b' w hb =>
        split at h
        · next heq => exact ⟨w, heq ▸ hb, ih h⟩
        · cases h
      · cases h
      · cases h
    | byte v =>
      simp only [State.reads, readElems] at h
      split at h
      · next v' w hv =>
        split at h
        · next heq => exact ⟨w, heq ▸ hv, ih h⟩
        · cases h
      · cases h
      · cases h

/-- Reading moves the reader's registers and nothing else. -/
theorem statePort_reads_frame {es : List Elem} {s t : State} (h : statePort.Reads es s t) :
    t = { s with rPos := t.rPos, rMask := t.rMask, rIndex := t.rIndex, rBacktrack := t.rBacktrack, rLast := t.rLast } := by
  induction es generalizing s with
  | nil =>
    obtain rfl : s = t := h
    rfl
  | cons e es ih =>
    cases e with
    | bit b =>
      obtain ⟨w, hb, hw⟩ := h
      have hframe := ih hw
      obtain ⟨_, _, rfl⟩ | ⟨_, _, _, rfl⟩ | ⟨_, _, _, _, rfl⟩ := readBit_ok hb
      all_goals exact hframe
    | byte v =>
      obtain ⟨w, hv, hw⟩ := h
      have hframe := ih hw
      obtain ⟨_, _, rfl⟩ := readByte_ok hv
      exact hframe

/-! The reader looks neither at `OUT` nor at `d_subset`, where the machine records the ones of a preamble. -/

/-- The state with other contents of `OUT` and another count of ones. -/
def State.beside (out : Memory) (outLen : Word) (subset : BitVec 3) (s : State) : State :=
  { s with out := out, outLen := outLen, dSubset := subset }

section Beside
variable {s t : State} (out : Memory) (outLen : Word) (subset : BitVec 3)

theorem srcRead_beside {a : Word} {v : Byte} (h : srcRead a s = .ok v t) :
    srcRead a (s.beside out outLen subset) = .ok v (t.beside out outLen subset) := by
  unfold srcRead at h
  split at h
  · next hmirror =>
    split at h
    · next ha => cases h; exact (if_pos hmirror).trans (if_pos ha)
    · cases h
  · next hmirror =>
    split at h
    · next ha => cases h; exact (if_neg hmirror).trans (if_pos ha)
    · cases h

theorem readOpenBit_beside {b : Bool} (h : readOpenBit s = .ok b t) :
    readOpenBit (s.beside out outLen subset) = .ok b (t.beside out outLen subset) := by
  obtain ⟨v, w, hv, hw⟩ := Res.bind_ok h
  cases hw
  exact congrArg (Res.bind · _) (srcRead_beside out outLen subset hv)

theorem readBit_beside {b : Bool} (h : readBit s = .ok b t) :
    readBit (s.beside out outLen subset) = .ok b (t.beside out outLen subset) := by
  unfold readBit at h
  split at h
  · next hpending => cases h; exact if_pos hpending
  · next hpending =>
    refine (if_neg hpending).trans ?_
    split at h
    · next hclosed =>
      split at h
      · cases h
      · next hend => exact (if_pos hclosed).trans ((if_neg hend).trans (readOpenBit_beside out outLen subset h))
    · next hopen => exact (if_neg hopen).trans (readOpenBit_beside out outLen subset h)

theorem readByte_beside {v : Byte} (h : readByte s = .ok v t) :
    readByte (s.beside out outLen subset) = .ok v (t.beside out outLen subset) := by
  have hmore : ¬ s.srcLen ≤ s.rPos := BitVec.not_le.mpr (readByte_ok h).1
  rw [readByte, if_neg hmore] at h
  obtain ⟨w, m, hm, hr⟩ := Res.bind_ok h
  cases hr
  exact (if_neg hmore).trans (congrArg (Res.bind · _) (srcRead_beside out outLen subset hm))

theorem statePort_reads_beside {es : List Elem} (h : statePort.Reads es s t) :
    statePort.Reads es (s.beside out outLen subset) (t.beside out outLen subset) := by
  induction es generalizing s with
  | nil => exact congrArg (State.beside out outLen subset) h
  | cons e es ih =>
    cases e with
    | bit b =>
      obtain ⟨w, hb, hw⟩ := h
      exact ⟨_, readBit_beside out outLen subset hb, ih hw⟩
    | byte v =>
      obtain ⟨w, hv, hw⟩ := h
      exact ⟨_, readByte_beside out outLen subset hv, ih hw⟩

end Beside

theorem statePort_oneKeepsBits : statePort.OneKeepsBits := by
  intro s t b h
  have hbeside := readBit_beside s.out s.outLen (s.dSubset + 1) h
  obtain ⟨_, _, rfl⟩ | ⟨_, _, _, rfl⟩ | ⟨_, _, _, _, rfl⟩ := readBit_ok h
  all_goals exact hbeside

theorem statePort_one_iterate (n : Nat) (s : State) :
    statePort.one^[n] s = { s with dSubset := s.dSubset + BitVec.ofNat 3 n } := by
  induction n generalizing s with
  | zero => simp
  | succ n ih =>
    rw [Function.iterate_succ_apply, ih, BitVec.ofNat_add, BitVec.add_comm (BitVec.ofNat 3 n), ← BitVec.add_assoc]
    rfl

/-- Settles O55: what the reader finds next is what the machine's port delivers, and the ones of a DAN3 preamble are counted in `d_subset`. -/
theorem fetchFromTheStream : Obligations.FetchFromTheStream := by
  intro s t i e es hc hi he hes h
  have hreads := statePort_reads_of_reads h
  have hsame : t.dSubset = s.dSubset := by rw [statePort_reads_frame hreads]
  unfold fetchElement
  rw [decodeElement_of_reads statePort_oneKeepsBits hc hi he hes hreads, statePort_one_iterate, hsame]
  split
  · next n => rw [Instr.preambleOnes, BitVec.ofNat_toNat, BitVec.setWidth_eq]
  · next hsubset => rw [Instr.preambleOnes_eq_zero hsubset, BitVec.add_zero]

end Machine

end Sys2Proof
end
section
/-! PROOFS. The interface of the host (30_encoding.md R90 to R92): the codes of the commands, the step that runs the next of them, and the accesses to `SRC`, `OUT`
and `MLEN`. -/

namespace Sys2Proof.Machine

-- No concurrency, as in the tests.
set_option Elab.async false

/-! ## One step (R90) -/

theorem step_of_cmds_nil {s : State} (h : s.cmds = []) : step s = .next s := by
  unfold step
  rw [h]

theorem step_of_cmds_cons {s : State} {c : Command} {rest : List Command} (h : s.cmds = c :: rest) :
    step s = transact c { s with cmds := rest } := by
  unfold step
  rw [h]

theorem transact_of_ok {c : Command} {i : Instr} (h : decodeCommand c = .ok i) (s : State) : transact c s = exec i s := by
  unfold transact
  rw [h]

theorem transact_of_error {c : Command} {k : ErrKind} (h : decodeCommand c = .error k) (s : State) :
    transact c s = operation (fun s => .raised k s) s := by
  unfold transact
  rw [h]

/-- Settles O57: the step takes the command from the list, and its transaction is the instruction it decodes to. -/
theorem stepRunsTheCommand : Obligations.StepRunsTheCommand := by
  refine ⟨fun s c rest i hcmds hdecode => ?_, fun s => step_of_cmds_nil⟩
  rw [step_of_cmds_cons hcmds, transact_of_ok hdecode]

/-! ## The codes of the commands (R92) -/

theorem decodeCommand_encodeCommand {i : Instr} (h : i.isCommand = true) :
    ∃ c, encodeCommand i = some c ∧ decodeCommand c = .ok i := by
  cases i with
  | reset | regRead | regWrite | abort | srcWrite | outRead | mlenRead | bwInit | writeBit | writeByte | writeBits
  | wSetBacktrack | flush | brInit | readBit | readByte | readBits | rSetBacktrack | egWrite | egRead | igWrite | igRead
  | bbgWrite | bbgRead | gammaBits | msInit | msInsert | msWalk | msLinear | msStepRun | tdStart | tdStep | tdRun =>
    exact ⟨_, rfl, rfl⟩
  | _ => cases h

/-- The `OP` values of R92. -/
def opCodes : List Nat :=
  [0x00, 0x01, 0x02, 0x03, 0x04, 0x05, 0x06, 0x10, 0x11, 0x12, 0x13, 0x14, 0x15, 0x20, 0x21, 0x22, 0x23, 0x24, 0x30, 0x31,
    0x32, 0x33, 0x34, 0x35, 0x36, 0x40, 0x41, 0x42, 0x43, 0x44, 0x50, 0x51, 0x52]

/-- A command decodes where its `OP` is in the table, and is malformed where it is not. -/
theorem decodeCommand_eq_error_iff {c : Command} {k : ErrKind} :
    decodeCommand c = .error k ↔ k = .malformedToken ∧ c.op.toNat ∉ opCodes := by
  unfold decodeCommand opCodes
  split <;> simp_all [eq_comm]

/-- Settles O9: the codes go both ways, and a command without one raises before it changes anything. -/
theorem commandCodes : Obligations.CommandCodes := by
  refine ⟨fun i => decodeCommand_encodeCommand, fun c => ?_, fun s c rest k hfault hcmds hdecode => ?_⟩
  · constructor
    · rintro ⟨k, hk⟩
      exact (decodeCommand_eq_error_iff.mp hk).2
    · intro hop
      exact ⟨.malformedToken, decodeCommand_eq_error_iff.mpr ⟨rfl, hop⟩⟩
  · obtain ⟨rfl, -⟩ := decodeCommand_eq_error_iff.mp hdecode
    rw [step_of_cmds_cons hcmds, transact_of_error hdecode]
    exact operation_runs hfault

/-! ## The accesses to `SRC`, `OUT` and `MLEN` (R91) -/

theorem exec_srcWrite {s : State} {a : Word} (v : Word) (h : a < s.cfg.srcCap) :
    exec (.srcWrite a v) s =
      .next (State.answered [] { s with src := Memory.write s.src a.toNat (v.extractLsb' 0 8) }) := by
  rw [← BitVec.setWidth_eq_extractLsb' (by decide)]
  exact congrArg finish (if_pos h)

/-- An unspecified read answers one word and is counted (notes/assumptions/6.md). -/
theorem finish_unspecified (s : State) :
    finish (unspecified s) = .next (State.answered [Config.freeWord s.draws] { s with draws := s.draws + 1 }) := rfl

theorem exec_outRead {s : State} {a : Word} (hfault : s.fault = false) (h : a < s.outLen) :
    exec (.outRead a) s = .next (s.answered [(s.outByte a.toNat).setWidth 32]) :=
  congrArg finish (if_pos ⟨h, hfault⟩)

theorem exec_outRead_unspecified {s : State} {a : Word} (h : s.fault = true ∨ s.outLen ≤ a) :
    exec (.outRead a) s = finish (unspecified s) := by
  refine congrArg finish (if_neg ?_)
  rintro ⟨hlt, hfault⟩
  obtain h | h := h
  · rw [hfault] at h; cases h
  · bv_omega

/-- A byte of `OUT` that holds a value reads as this value. -/
theorem State.outByte_of_read {s : State} {a : Nat} {v : Byte} (ha : a < s.outLen.toNat) (h : Memory.read s.out a = some v) :
    s.outByte a = v := by
  rw [State.outByte, if_pos ha, h, Option.getD_some]

theorem exec_mlenRead {s : State} {a v : Word} (hfault : s.fault = false) (hmode : s.mode = .run) (h1 : 1 ≤ a)
    (hmax : a ≤ s.msMaxOff) (h : s.mlen.read a.toNat = some v) : exec (.mlenRead a) s = .next (s.answered [v]) := by
  change execMlenRead a s = _
  rw [execMlenRead, h]
  exact congrArg finish (if_pos ⟨hfault, hmode, h1, hmax⟩)

theorem exec_mlenRead_faulted {s : State} (a : Word) (hfault : s.fault = true) :
    exec (.mlenRead a) s = finish (unspecified s) := by
  change execMlenRead a s = _
  unfold execMlenRead
  split
  · exact congrArg finish (if_neg fun h => by rw [hfault] at h; cases h.1)
  · rfl

theorem exec_regRead (s : State) (r : Word) : exec (.regRead r) s = .next (s.answered [s.reg r]) := rfl

/-- While `FAULT = 1` the output is hidden (60_exceptions.md R405). -/
theorem State.reg_outLen_faulted {s : State} (h : s.fault = true) : s.reg 9 = 0 := if_pos h

/-- Settles O4, one lemma for each access. -/
theorem windowAccess : Obligations.WindowAccess := by
  refine ⟨fun s a v ha => ?_, fun s a v hfault ha hv => ?_, fun s a v hfault hmode h1 hmax hv => ?_, fun s a h => ?_,
    fun s a hfault => ?_, fun s hfault => ⟨?_, rfl, rfl⟩⟩
  · exact ⟨_, exec_srcWrite v ha, Memory.read_write_same _ _ _, fun b hb => Memory.read_write_other _ _ hb⟩
  · rw [exec_outRead hfault ha, State.outByte_of_read ha hv]
  · exact exec_mlenRead hfault (by rw [State.mode, hmode]; rfl) h1 hmax hv
  · exact ⟨_, exec_outRead_unspecified h⟩
  · exact ⟨_, exec_mlenRead_faulted a hfault⟩
  · rw [exec_regRead, State.reg_outLen_faulted hfault]

end Sys2Proof.Machine
end
section
/-! PROOFS. What the fields of a well-formed match spell (30_encoding.md R98 to R105), and the words written out by hand. -/

namespace Sys2Proof.Machine

-- No concurrency, as in the tests.
set_option Elab.async false

/-! ## Offsets and lengths (R98 to R103, R105) -/

/-- An offset of one byte, or, where its bit 7 is set, of its other bits below `n` high bits and `base` (R99, R103, R105). -/
theorem splitOffset_range {bo : Byte} {high base N : Nat} (h : 128 ≤ bo.toNat → high + 1 ≤ N) (hN : 1 ≤ N) :
    1 ≤ (if bo.toNat < 128 then bo.toNat + 1 else high * 128 + (bo.toNat - 128) + (base + 1)) ∧
      (if bo.toNat < 128 then bo.toNat + 1 else high * 128 + (bo.toNat - 128) + (base + 1)) ≤ 128 * N + base := by
  have hbo := bo.isLt
  split
  · omega
  · have := h (by omega)
    omega

theorem lzfOffset_range (hi : BitVec 5) (lo : Byte) :
    1 ≤ hi.toNat * 256 + lo.toNat + 1 ∧ hi.toNat * 256 + lo.toNat + 1 ≤ 8192 := by
  have hhi := hi.isLt
  have hlo := lo.isLt
  omega

theorem lzfLong_range {hi : BitVec 5} {len9 lo : Byte} {o l : Nat} (hwf : (Instr.lzfLong hi len9 lo).wf = true)
    (h : matchShape (.lzfLong hi len9 lo) = some (o, l)) : 1 ≤ o ∧ o ≤ 7936 ∧ 9 ≤ l ∧ l ≤ 264 := by
  cases h
  have hne : hi ≠ 0x1F := of_decide_eq_true hwf
  have hhi : hi.toNat < 31 := by bv_omega
  have hlen := len9.isLt
  have hlo := lo.isLt
  omega

theorem pltMatch_range {c : DecodeCtx} {g : Word} {bo : Byte} {extra : BitVec 6} {o l : Nat}
    (hi : encodableIn c (.pltMatch g bo extra) = true) (h : matchShape (.pltMatch g bo extra) = some (o, l)) :
    1 ≤ o ∧ o ≤ 128 * 2 ^ (c.q.toNat - 1) ∧ 2 ≤ l := by
  cases h
  obtain ⟨⟨hg, -⟩, -, -, hextra⟩ := encodableIn_pltMatch hi
  have hlen : 2 ≤ g.toNat + 1 := by bv_omega
  obtain ⟨hlow, hhigh⟩ := splitOffset_range (bo := bo) (base := 0) (fun _ => hextra) (Nat.two_pow_pos _)
  exact ⟨hlow, hhigh, hlen⟩

theorem dan1Match_range {len : Word} {off : Dan1Offset} {o l : Nat} (hwf : (Instr.dan1Match len off).wf = true)
    (h : matchShape (.dan1Match len off) = some (o, l)) :
    1 ≤ o ∧ o ≤ (if l = 1 then 18 else if l = 2 then 274 else 4370) ∧ 1 ≤ l ∧ l ≤ 65535 := by
  obtain ⟨h1, hmax, hoff⟩ : 1 ≤ len ∧ len ≤ 65535 ∧ off.fits len = true := of_decide_eq_true hwf
  have hlen : 1 ≤ len.toNat ∧ len.toNat ≤ 65535 := by bv_omega
  cases off with
  | tier1 u => cases h; have hu := u.isLt; split_ifs <;> omega
  | tier2 u => cases h; have hu := u.isLt; split_ifs <;> omega
  | tier3 v =>
    cases h
    have h2 : 2 ≤ len := of_decide_eq_true hoff
    have hv := v.isLt
    have : 2 ≤ len.toNat := by bv_omega
    split_ifs <;> omega
  | tier4 hi lo =>
    cases h
    have h3 : 3 ≤ len := of_decide_eq_true hoff
    have hhi := hi.isLt
    have hlo := lo.isLt
    have : 3 ≤ len.toNat := by bv_omega
    split_ifs <;> omega

theorem dan3Match_range {c : DecodeCtx} {len : Word} {off : Dan3Offset} {o l : Nat}
    (henc : encodableIn c (.dan3Match len off) = true) (h : matchShape (.dan3Match len off) = some (o, l)) :
    1 ≤ o ∧ o ≤ (if l = 1 then 3 else 2 ^ (9 + c.subset.toNat) + 32 + 256) := by
  obtain ⟨⟨-, hoff⟩, -, hsub⟩ := encodableIn_dan3Match henc
  have hpow : 2 ^ (9 + c.subset.toNat) = 256 * 2 ^ (c.subset.toNat + 1) := by
    rw [show 9 + c.subset.toNat = 8 + (c.subset.toNat + 1) by omega, pow_add]
    rfl
  rw [hpow]
  cases off with
  | one =>
    cases h
    have h1 : len = 1 := of_decide_eq_true hoff
    rw [if_pos (by rw [h1]; rfl)]
    omega
  | two u =>
    cases h
    have h1 : len = 1 := of_decide_eq_true hoff
    have hu := u.isLt
    rw [if_pos (by rw [h1]; rfl)]
    omega
  | tierA u =>
    cases h
    have h2 : 2 ≤ len := of_decide_eq_true hoff
    have hu := u.isLt
    rw [if_neg (by bv_omega)]
    omega
  | tierB v =>
    cases h
    have h2 : 2 ≤ len := of_decide_eq_true hoff
    have hv := v.isLt
    have hpos := Nat.two_pow_pos (c.subset.toNat + 1)
    rw [if_neg (by bv_omega)]
    omega
  | tierC hi lo =>
    cases h
    have h2 : 2 ≤ len := of_decide_eq_true hoff
    have hhi : hi.toNat < 2 ^ (c.subset.toNat + 1) := hsub
    have hlo := lo.isLt
    rw [if_neg (by bv_omega)]
    omega

theorem zx7Match_range {g : Word} {bo : Byte} {high : BitVec 4} {o l : Nat} (hwf : (Instr.zx7Match g bo high).wf = true)
    (h : matchShape (.zx7Match g bo high) = some (o, l)) : 1 ≤ o ∧ o ≤ 2176 ∧ 2 ≤ l ∧ l ≤ 65536 := by
  cases h
  obtain ⟨h1, hmax, -⟩ : 1 ≤ g ∧ g ≤ 65535 ∧ (bo < 128 → high = 0) := of_decide_eq_true hwf
  have hlen : 2 ≤ g.toNat + 1 ∧ g.toNat + 1 ≤ 65536 := by bv_omega
  obtain ⟨hlow, hhigh⟩ := splitOffset_range (bo := bo) (base := 128) (N := 16) (fun _ => high.isLt) (by decide)
  exact ⟨hlow, hhigh, hlen⟩

theorem bbMatch_range {d : Byte} {hi : BitVec 4} {g : Word} {o l : Nat} (hwf : (Instr.bbMatch d hi g).wf = true)
    (h : matchShape (.bbMatch d hi g) = some (o, l)) : 1 ≤ o ∧ o ≤ 2048 ∧ 2 ≤ l ∧ l ≤ 65536 := by
  cases h
  obtain ⟨-, hmax⟩ : (d < 128 → hi = 0) ∧ g ≤ 65534 := of_decide_eq_true hwf
  have hlen : 2 ≤ g.toNat + 2 ∧ g.toNat + 2 ≤ 65536 := by bv_omega
  obtain ⟨hlow, hhigh⟩ := splitOffset_range (bo := d) (base := 0) (N := 16) (fun _ => hi.isLt) (by decide)
  exact ⟨hlow, hhigh, hlen⟩

/-- Settles O45, one lemma for each match. -/
theorem offsetRanges : Obligations.OffsetRanges := by
  refine ⟨fun control hi lo o l h => ?_, fun _ _ _ _ _ => lzfLong_range, fun _ _ _ _ _ _ _ => pltMatch_range,
    fun _ _ _ _ => dan1Match_range, fun _ _ _ _ _ => dan3Match_range, fun _ _ _ _ _ => zx7Match_range,
    fun _ _ _ _ _ => bbMatch_range⟩
  cases h
  exact lzfOffset_range hi lo

/-! ## Words written out (R92, R97, R98, R103, R105, R358, R362) -/

/-- Settles O56: each word is decoded, and each token emitted, by computation. -/
theorem decodedWords : Obligations.DecodedWords :=
  ⟨rfl, rfl, by decide +kernel, by decide +kernel, rfl, rfl, rfl, rfl⟩

end Sys2Proof.Machine
end

section
/-! PROOFS. The bit writer and the bit reader (40_bitio.md): what each of their operations does on each of its paths, one rule per path, and the
statements that these rules give at once. -/

namespace Sys2Proof.Machine

-- No concurrency, as in the tests.
set_option Elab.async false

/-! ## The transactions of BW and BR -/

theorem exec_bwInit (s : State) : exec .bwInit s = .next (s.clearFault.bwStart.answered []) := rfl
theorem exec_writeBit (v : Word) (s : State) : exec (.writeBit v) s = operation (quiet (writeBit (v != 0))) s := rfl
theorem exec_writeByte (v : Word) (s : State) : exec (.writeByte v) s = operation (quiet (putByte (v.setWidth 8))) s := rfl
theorem exec_brInit (s : State) : exec .brInit s = .next (s.clearFault.brStart.answered []) := rfl
theorem exec_readBit (s : State) :
    exec .readBit s = operation (fun s => (readBit s).map fun b => [bitWord b]) s := rfl
theorem exec_readByte (s : State) :
    exec .readByte s = operation (fun s => (readByte s).map fun v => [v.setWidth 32]) s := rfl

/-- An operation that answers what its body returns. -/
theorem mapOperation_of_ok {α : Type} {body : State → Res State Fault α} {f : α → List Word} {s t : State} {a : α}
    (hf : s.fault = false) (h : body s = .ok a t) :
    operation (fun s => (body s).map f) s = .next (t.answered (f a)) := by
  simp [operation_runs hf, h, Res.map]

theorem mapOperation_of_raised {α : Type} {body : State → Res State Fault α} {f : α → List Word} {s t : State}
    {k : ErrKind} (hf : s.fault = false) (h : body s = .raised k t) :
    operation (fun s => (body s).map f) s = finish (.raised k t) := by
  simp [operation_runs hf, h, Res.map]

/-- A result word of one bit is the number 0 or 1. -/
theorem bitWord_eq_ite (b : Bool) : bitWord b = if b then 1 else 0 := by
  cases b <;> rfl

/-! ## Bits of a byte -/

/-- A mask of one bit picks this bit. -/
theorem and_twoPow_ne_zero (v : Byte) {i : Nat} (hi : i < 8) : (v &&& BitVec.twoPow 8 i != 0) = v.getLsbD i := by
  have hne : BitVec.twoPow 8 i ≠ 0 := by interval_cases i <;> decide
  rw [BitVec.and_twoPow]
  cases v.getLsbD i with
  | false => rfl
  | true => exact bne_iff_ne.mpr hne

/-! ## Bytes of `OUT` -/

/-- `OUT` with a bit written into a byte that is there: a 1 sets the bits of the mask, a 0 leaves them (R121). -/
def State.filled (b : Bool) (a : Word) (bits : Byte) (s : State) : State :=
  { s with out := if b then Memory.write s.out a.toNat (s.outByte a.toNat ||| bits) else s.out }

@[simp] theorem State.filled_false (a : Word) (bits : Byte) (s : State) : s.filled false a bits = s := rfl

@[simp] theorem State.filled_cfg (b : Bool) (a : Word) (bits : Byte) (s : State) : (s.filled b a bits).cfg = s.cfg := rfl
@[simp] theorem State.filled_outLen (b : Bool) (a : Word) (bits : Byte) (s : State) : (s.filled b a bits).outLen = s.outLen := rfl
@[simp] theorem State.filled_wMask (b : Bool) (a : Word) (bits : Byte) (s : State) : (s.filled b a bits).wMask = s.wMask := rfl
@[simp] theorem State.filled_wIndex (b : Bool) (a : Word) (bits : Byte) (s : State) : (s.filled b a bits).wIndex = s.wIndex := rfl
@[simp] theorem State.filled_wBacktrack (b : Bool) (a : Word) (bits : Byte) (s : State) : (s.filled b a bits).wBacktrack = s.wBacktrack := rfl
@[simp] theorem State.filled_fault (b : Bool) (a : Word) (bits : Byte) (s : State) : (s.filled b a bits).fault = s.fault := rfl
@[simp] theorem State.filled_epoch (b : Bool) (a : Word) (bits : Byte) (s : State) : (s.filled b a bits).epoch = s.epoch := rfl

theorem State.read_filled (b : Bool) (a : Word) (bits : Byte) (s : State) (c : Nat) :
    Memory.read (s.filled b a bits).out c =
      if b = true ∧ c = a.toNat then some (s.outByte a.toNat ||| bits) else Memory.read s.out c := by
  cases b with
  | false => simp
  | true => simp [State.filled, Memory.read_write]

/-- The state once `WRITE_BIT` has reserved a bit byte at the end of `OUT`: `w_index` names it, and its first bit comes next (R121). -/
def State.reserved (s : State) : State :=
  { s with out := Memory.write s.out s.outLen.toNat 0, outLen := s.outLen + 1, wIndex := s.outLen, wMask := 0x80 }

@[simp] theorem State.reserved_cfg (s : State) : s.reserved.cfg = s.cfg := rfl
@[simp] theorem State.reserved_outLen (s : State) : s.reserved.outLen = s.outLen + 1 := rfl
@[simp] theorem State.reserved_wMask (s : State) : s.reserved.wMask = 0x80 := rfl
@[simp] theorem State.reserved_wIndex (s : State) : s.reserved.wIndex = s.outLen := rfl
@[simp] theorem State.reserved_wBacktrack (s : State) : s.reserved.wBacktrack = s.wBacktrack := rfl
@[simp] theorem State.reserved_fault (s : State) : s.reserved.fault = s.fault := rfl

/-! ## The bit writer, path by path -/

theorem putByte_of_room {v : Byte} {s : State} (h : s.outLen < s.cfg.outCap) :
    putByte v s = .ok () { s with out := Memory.write s.out s.outLen.toNat v, outLen := s.outLen + 1 } := by
  simp [putByte, BitVec.not_le.mpr h]

/-- The part of `WRITE_BIT` that its paths share completes where the byte exists. -/
theorem fill_of_lt {b : Bool} {a : Word} {bits : Byte} {s : State} (h : b = true → a < s.cfg.outCap) :
    (if b then backfill a bits s else .ok () s) = .ok () (s.filled b a bits) := by
  cases b with
  | false => rfl
  | true => simp [backfill, h rfl, State.filled]

theorem fill_ok {b : Bool} {a : Word} {bits : Byte} {s t : State}
    (h : (if b then backfill a bits s else .ok () s) = .ok () t) : (b = true → a < s.cfg.outCap) ∧ t = s.filled b a bits := by
  have hlt : b = true → a < s.cfg.outCap := by
    rintro rfl
    exact (backfill_ok (by simpa using h)).1
  rw [fill_of_lt hlt] at h
  cases h
  exact ⟨hlt, rfl⟩

theorem writeOpenBit_of_lt {b : Bool} {s : State} (h : b = true → s.wIndex < s.cfg.outCap) :
    writeOpenBit b s = .ok () { s.filled b s.wIndex s.wMask with wMask := s.wMask >>> 1 } := by
  rw [writeOpenBit, fill_of_lt h]
  rfl

theorem writeBit_of_pending {b : Bool} {s : State} (hb : s.wBacktrack = true) (h : b = true → s.outLen - 1 < s.cfg.outCap) :
    writeBit b s = .ok () { s.filled b (s.outLen - 1) 0x01 with wBacktrack := false } := by
  rw [writeBit, if_pos hb, fill_of_lt h]
  rfl

theorem writeBit_of_open {b : Bool} {s : State} (hb : s.wBacktrack = false) (hm : s.wMask ≠ 0)
    (h : b = true → s.wIndex < s.cfg.outCap) :
    writeBit b s = .ok () { s.filled b s.wIndex s.wMask with wMask := s.wMask >>> 1 } := by
  rw [writeBit, if_neg (by simp [hb]), if_neg hm, writeOpenBit_of_lt h]

theorem writeBit_of_closed {b : Bool} {s : State} (hb : s.wBacktrack = false) (hm : s.wMask = 0)
    (hroom : s.outLen < s.cfg.outCap) :
    writeBit b s = .ok () { s.reserved.filled b s.outLen 0x80 with wMask := 0x40 } := by
  have hindex : s.outLen + 1 - 1 = s.outLen := by bv_omega
  rw [writeBit, if_neg (by simp [hb]), if_pos hm, putByte_of_room hroom, Res.bind_of_ok, hindex]
  have hmask : s.reserved.wMask >>> 1 = 0x40 := by rw [State.reserved_wMask]; decide
  rw [← hmask]
  exact writeOpenBit_of_lt (s := s.reserved) fun _ => hroom

theorem writeBit_of_full {b : Bool} {s : State} (hb : s.wBacktrack = false) (hm : s.wMask = 0)
    (hfull : s.cfg.outCap ≤ s.outLen) : writeBit b s = .raised .outputOverflow s := by
  rw [writeBit, if_neg (by simp [hb]), if_pos hm, putByte_raised_of_le _ hfull, Res.bind_of_raised]

/-! ## The bit reader, path by path -/

/-- A byte of a legal stream, forwards and mirrored (R223). -/
theorem srcRead_of_lt {s : State} {a : Word} (ha : a < s.srcLen) (hlen : s.srcLen ≤ s.cfg.srcCap) :
    srcRead a s = .ok (s.srcByte (s.physical a.toNat)) s := by
  have hcap : a < s.cfg.srcCap := by bv_omega
  have hmirror : s.srcLen.toNat - 1 - a.toNat < s.cfg.srcCap.toNat := by bv_omega
  cases hm : s.dMirror with
  | false => simp [srcRead, State.physical, hm, hcap]
  | true => simp [srcRead, State.physical, hm, ha, hmirror]

theorem State.srcByte_of_read {s : State} {a : Nat} {v : Byte} (h : Memory.read s.src a = some v) : s.srcByte a = v := by
  simp [State.srcByte, h]

theorem readByte_of_lt {s : State} (hpos : s.rPos < s.srcLen) (hlen : s.srcLen ≤ s.cfg.srcCap) :
    readByte s = .ok (s.srcByte (s.physical s.rPos.toNat))
      { s with rPos := s.rPos + 1, rLast := s.srcByte (s.physical s.rPos.toNat) } := by
  rw [readByte, if_neg (BitVec.not_le.mpr hpos), srcRead_of_lt hpos hlen, Res.bind_of_ok]

/-- With the byte that the host has loaded. -/
theorem readByte_of_loaded {s : State} {v : Byte} (hpos : s.rPos < s.srcLen) (hlen : s.srcLen ≤ s.cfg.srcCap)
    (hv : Memory.read s.src (s.physical s.rPos.toNat) = some v) :
    readByte s = .ok v { s with rPos := s.rPos + 1, rLast := v } := by
  rw [readByte_of_lt hpos hlen, State.srcByte_of_read hv]

theorem readByte_at_end {s : State} (h : s.srcLen ≤ s.rPos) : readByte s = .raised .truncatedStream s :=
  if_pos h

theorem readBit_of_pending {s : State} (hb : s.rBacktrack = true) :
    readBit s = .ok (s.rLast.getLsbD 0) { s with rBacktrack := false } :=
  if_pos hb

theorem readBit_of_open {s : State} (hb : s.rBacktrack = false) (hm : s.rMask ≠ 0) (hindex : s.rIndex < s.srcLen)
    (hlen : s.srcLen ≤ s.cfg.srcCap) :
    readBit s = .ok (s.srcByte (s.physical s.rIndex.toNat) &&& s.rMask != 0) { s with rMask := s.rMask >>> 1 } := by
  rw [readBit, if_neg (by simp [hb]), if_neg hm, readOpenBit, srcRead_of_lt hindex hlen, Res.bind_of_ok]

theorem readBit_of_closed {s : State} (hb : s.rBacktrack = false) (hm : s.rMask = 0) (hpos : s.rPos < s.srcLen)
    (hlen : s.srcLen ≤ s.cfg.srcCap) :
    readBit s = .ok ((s.srcByte (s.physical s.rPos.toNat)).getLsbD 7)
      { s with rIndex := s.rPos, rPos := s.rPos + 1, rMask := 0x40 } := by
  have hfetch := srcRead_of_lt (s := { s with rIndex := s.rPos, rPos := s.rPos + 1, rMask := 0x80 }) hpos hlen
  have hmask : (0x80 : Byte) >>> 1 = 0x40 := by decide
  have htop : (0x80 : Byte) = BitVec.twoPow 8 7 := by decide
  rw [readBit, if_neg (by simp [hb]), if_pos hm, if_neg (BitVec.not_le.mpr hpos), readOpenBit, hfetch, Res.bind_of_ok,
    hmask, htop, and_twoPow_ne_zero _ (by decide)]
  rfl

theorem readBit_at_end {s : State} (hb : s.rBacktrack = false) (hm : s.rMask = 0) (hend : s.srcLen ≤ s.rPos) :
    readBit s = .raised .truncatedStream s := by
  rw [readBit, if_neg (by simp [hb]), if_pos hm, if_pos hend]

/-! ## The statements of one transaction -/

/-- Settles O11: both transactions are `CLEAR_FAULT` and the assignments of R120 and R125. -/
theorem streamStart : Obligations.StreamStart :=
  ⟨exec_bwInit, exec_brInit⟩

/-- Settles O12: one part for each path of R121. -/
theorem writeBitEffect : Obligations.WriteBitEffect := by
  intro s v hf
  have run : ∀ {b t}, (v != 0) = b → writeBit b s = .ok () t → exec (.writeBit v) s = .next (t.answered []) := by
    rintro _ _ rfl h
    exact quietOperation_ok hf h
  have zero : v = 0 → (v != 0) = false := bne_eq_false_iff_eq.mpr
  have one : v ≠ 0 → (v != 0) = true := bne_iff_ne.mpr
  refine ⟨fun hb hv => ?pendingZero, fun hb hv hpos hcap => ?pendingOne, fun hb hm hv => ?openZero,
    fun hb hm hv hlen hcap => ?openOne, fun hb hm hroom => ?closed, fun hb hm hfull => ?full⟩
  case pendingZero => exact run (zero hv) (writeBit_of_pending hb nofun)
  case pendingOne =>
    have hlast : (s.outLen - 1).toNat = s.outLen.toNat - 1 := by bv_omega
    refine ⟨_, run (one hv) (writeBit_of_pending hb fun _ => by bv_omega), fun old hold => ?_, fun a ha => ?_⟩
    · have hbyte := State.outByte_of_read (by bv_omega) hold
      simp only [State.read_filled, hlast, hbyte, and_self, if_true]
    · simp only [State.read_filled, hlast, ha, and_false, if_false]
  case openZero => exact run (zero hv) (writeBit_of_open hb hm nofun)
  case openOne =>
    refine ⟨_, run (one hv) (writeBit_of_open hb hm fun _ => hcap), fun old hold => ?_, fun a ha => ?_⟩
    · simp [State.read_filled, State.outByte_of_read hlen hold]
    · simp [State.read_filled, ha]
  case closed =>
    have hnew : s.reserved.outByte s.outLen.toNat = 0 :=
      State.outByte_of_read (by simp only [State.reserved]; bv_omega) (Memory.read_write_same _ _ _)
    refine ⟨_, run rfl (writeBit_of_closed hb hm hroom), ?_, fun a ha => ?_⟩
    · by_cases hv : v = 0
      · simp [State.reserved, hv]
      · simp only [State.read_filled, one hv, hnew, and_self, if_true, if_neg hv]
        decide
    · simp [State.read_filled, State.reserved, Memory.read_write, ha]
  case full => exact quietOperation_raised hf (writeBit_of_full hb hm (BitVec.le_of_eq hfull.symm))

/-- Settles O13. -/
theorem writeByteEffect : Obligations.WriteByteEffect := by
  intro s v hf
  have hv : v.setWidth 8 = v.extractLsb' 0 8 := BitVec.setWidth_eq_extractLsb' (by decide)
  rw [exec_writeByte, hv]
  refine ⟨fun hroom => ?_, fun hfull => quietOperation_raised hf (putByte_raised_of_le _ (BitVec.le_of_eq hfull.symm))⟩
  have hput := putByte_of_room (v := v.extractLsb' 0 8) hroom
  exact ⟨_, (putByte_ok hput).2, quietOperation_ok hf hput⟩

/-- Settles O15. -/
theorem backtrackFlagsAndFlush : Obligations.BacktrackFlagsAndFlush := fun _ hf =>
  ⟨fun h => quietOperation_ok hf (if_neg h), fun h => quietOperation_raised hf (if_pos h),
    quietOperation_ok hf rfl, quietOperation_ok hf rfl⟩

/-- Settles O16: one part for each path of R126. -/
theorem readBitEffect : Obligations.ReadBitEffect := by
  intro s hf
  have run : ∀ {b t}, readBit s = .ok b t → exec .readBit s = .next (t.answered [if b then 1 else 0]) := by
    intro b t h
    rw [exec_readBit, mapOperation_of_ok hf h, bitWord_eq_ite]
  refine ⟨fun hb => run (readBit_of_pending hb), fun v hb hm hindex hlen hv => ?_, fun v hb hm hpos hlen hv => ?_,
    fun hb hm hend => mapOperation_of_raised hf (readBit_at_end hb hm hend)⟩
  · rw [run (readBit_of_open hb hm hindex hlen), State.srcByte_of_read hv]
    simp
  · rw [run (readBit_of_closed hb hm hpos hlen), State.srcByte_of_read hv]

/-- Settles O17: one part for each path of R127. -/
theorem readByteEffect : Obligations.ReadByteEffect := fun _ hf =>
  ⟨fun _ hpos hlen hv => mapOperation_of_ok hf (readByte_of_loaded hpos hlen hv),
    fun hend => mapOperation_of_raised hf (readByte_at_end hend)⟩

end Sys2Proof.Machine
end

section
/-! PROOFS. Runs of transactions, and the two operations on bit fields: `WRITE_BITS` is a run of `WRITE_BIT`s (R123), and `READ_BITS` returns what the
next bits spell (R128). -/

namespace Sys2Proof.Machine

-- No concurrency, as in the tests.
set_option Elab.async false

/-! ## Runs of transactions -/

/-- A run begins with a transaction that takes no fault, and goes on from the state this leaves. -/
theorem runAll_cons_eq_some {i : Instr} {is : List Instr} {s u : State} {ws : List (List Word)} :
    runAll (i :: is) s = some (ws, u) ↔
      ∃ t vs, exec i s = .next t ∧ t.fault = false ∧ runAll is t = some (vs, u) ∧ ws = t.resp.res :: vs := by
  constructor
  · intro h
    simp only [runAll] at h
    split at h
    · next t ht =>
      split at h
      · cases h
      · next hf =>
        split at h
        · next vs w hr =>
          cases h
          exact ⟨t, vs, ht, by simpa using hf, hr, rfl⟩
        · cases h
    · cases h
    · cases h
  · rintro ⟨t, vs, ht, hf, hr, rfl⟩
    simp [runAll, ht, hf, hr]

theorem after_eq_some {is : List Instr} {s u : State} : after is s = some u ↔ ∃ ws, runAll is s = some (ws, u) := by
  simp [after]

theorem after_cons_eq_some {i : Instr} {is : List Instr} {s u : State} :
    after (i :: is) s = some u ↔ ∃ t, exec i s = .next t ∧ t.fault = false ∧ after is t = some u := by
  simp only [after_eq_some, runAll_cons_eq_some]
  constructor
  · rintro ⟨_, t, vs, ht, hf, hr, -⟩
    exact ⟨t, ht, hf, vs, hr⟩
  · rintro ⟨t, ht, hf, vs, hr⟩
    exact ⟨_, t, vs, ht, hf, hr, rfl⟩

@[simp] theorem after_nil (s : State) : after [] s = some s := rfl

/-- One run after another. -/
theorem runAll_append {is js : List Instr} {s t u : State} {ws vs : List (List Word)} (h₁ : runAll is s = some (ws, t))
    (h₂ : runAll js t = some (vs, u)) : runAll (is ++ js) s = some (ws ++ vs, u) := by
  induction is generalizing s ws with
  | nil => cases h₁; exact h₂
  | cons i is ih =>
    obtain ⟨r, xs, hr, hf, hx, rfl⟩ := runAll_cons_eq_some.mp h₁
    exact runAll_cons_eq_some.mpr ⟨r, xs ++ vs, hr, hf, ih hx, rfl⟩

theorem after_append_eq_some {is js : List Instr} {s u : State} :
    after (is ++ js) s = some u ↔ ∃ t, after is s = some t ∧ after js t = some u := by
  induction is generalizing s with
  | nil => simp
  | cons i is ih =>
    simp only [List.cons_append, after_cons_eq_some, ih]
    constructor
    · rintro ⟨r, hr, hf, t, ht, hu⟩
      exact ⟨t, ⟨r, hr, hf, ht⟩, hu⟩
    · rintro ⟨t, ⟨r, hr, hf, ht⟩, hu⟩
      exact ⟨r, hr, hf, t, ht, hu⟩

/-! ## Bit strings -/

theorem msbFirst_succ (v n : Nat) : msbFirst v (n + 1) = v.testBit n :: msbFirst v n := by
  simp [msbFirst, List.range_succ]

@[simp] theorem length_msbFirst (v n : Nat) : (msbFirst v n).length = n := by
  simp [msbFirst]

/-- The model's bits of a field are those of the number it holds. -/
theorem bitsOf_eq_msbFirst (v : Word) (n : Nat) : bitsOf v n = msbFirst v.toNat n := by
  induction n with
  | zero => rfl
  | succ n ih => rw [bitsOf, msbFirst_succ, ih]; rfl

/-! ## `WRITE_BITS` -/

/-- How a `WRITE_BIT` that completes has gone: the three paths of R121 on which it does. -/
theorem writeBit_paths {b : Bool} {s t : State} (h : writeBit b s = .ok () t) :
    (s.wBacktrack = true ∧ (b = true → s.outLen - 1 < s.cfg.outCap) ∧
      t = { s.filled b (s.outLen - 1) 0x01 with wBacktrack := false }) ∨
    (s.wBacktrack = false ∧ s.wMask ≠ 0 ∧ (b = true → s.wIndex < s.cfg.outCap) ∧
      t = { s.filled b s.wIndex s.wMask with wMask := s.wMask >>> 1 }) ∨
    (s.wBacktrack = false ∧ s.wMask = 0 ∧ s.outLen < s.cfg.outCap ∧
      t = { s.reserved.filled b s.outLen 0x80 with wMask := 0x40 }) := by
  cases hb : s.wBacktrack with
  | true =>
    obtain ⟨_, u, hu, hr⟩ := Res.bind_ok (by simpa only [writeBit, hb, if_true] using h)
    obtain ⟨hlt, rfl⟩ := fill_ok hu
    cases hr
    exact .inl ⟨rfl, hlt, rfl⟩
  | false =>
    right
    by_cases hm : s.wMask = 0
    · have hroom : s.outLen < s.cfg.outCap := by
        by_contra hfull
        simp [writeBit_of_full hb hm (BitVec.not_lt.mp hfull)] at h
      rw [writeBit_of_closed hb hm hroom] at h
      cases h
      exact .inr ⟨rfl, hm, hroom, rfl⟩
    · rw [writeBit, if_neg (by simp [hb]), if_neg hm, writeOpenBit] at h
      obtain ⟨_, u, hu, hr⟩ := Res.bind_ok h
      obtain ⟨hlt, rfl⟩ := fill_ok hu
      cases hr
      exact .inl ⟨rfl, hm, hlt, rfl⟩

/-- A state with another response. -/
def State.withResp (r : Response) (s : State) : State := { s with resp := r }

/-- `WRITE_BIT` does not look at the response of the last transaction. -/
theorem writeBit_withResp {b : Bool} {s t : State} (r : Response) (h : writeBit b s = .ok () t) :
    writeBit b (s.withResp r) = .ok () (t.withResp r) := by
  obtain ⟨hb, hlt, rfl⟩ | ⟨hb, hm, hlt, rfl⟩ | ⟨hb, hm, hroom, rfl⟩ := writeBit_paths h
  · exact writeBit_of_pending (s := s.withResp r) hb hlt
  · exact writeBit_of_open (s := s.withResp r) hb hm hlt
  · exact writeBit_of_closed (s := s.withResp r) hb hm hroom

theorem writeAll_withResp {bits : List Bool} {s t : State} (r : Response) (h : writeAll bits s = .ok () t) :
    writeAll bits (s.withResp r) = .ok () (t.withResp r) := by
  induction bits generalizing s with
  | nil => cases h; rfl
  | cons b bits ih =>
    obtain ⟨_, u, hu, ht⟩ := Res.bind_ok h
    rw [writeAll, writeBit_withResp r hu]
    exact ih ht

/-- An operand of one bit is nonzero exactly when the bit is set. -/
theorem bitOperand_ne_zero (b : Bool) : ((if b then 1 else 0 : Word) != 0) = b := by
  cases b <;> rfl

theorem exec_writeBit_of_ok {b : Bool} {s t : State} (hf : s.fault = false) (h : writeBit b s = .ok () t) :
    exec (.writeBit (if b then 1 else 0)) s = .next (t.answered []) := by
  rw [exec_writeBit, bitOperand_ne_zero]
  exact quietOperation_ok hf h

/-- A sequence of bits written within one transaction, and by one transaction for each bit: the same state but for the response. -/
theorem after_writeBits {bits : List Bool} {s t : State} (hf : s.fault = false) (h : writeAll bits s = .ok () t) :
    ∃ u, after (writeBits bits) s = some u ∧ u.answered [] = t.answered [] := by
  induction bits generalizing s t with
  | nil => cases h; exact ⟨s, rfl, rfl⟩
  | cons b bits ih =>
    obtain ⟨_, r, hr, ht⟩ := Res.bind_ok h
    have hf' : r.fault = false := by rw [writeBit_ok hr]; exact hf
    obtain ⟨u, hu, he⟩ := ih (s := r.answered []) hf' (writeAll_withResp ⟨r.status, []⟩ ht)
    exact ⟨u, after_cons_eq_some.mpr ⟨_, exec_writeBit_of_ok hf hr, hf', hu⟩, he⟩

/-! ### Room for bits -/

/-- The bits an open bit byte can still take, by its mask. -/
def openBits (m : Byte) : Nat := if m = 0 then 0 else Nat.log2 m.toNat + 1

theorem openBits_shift {m : Byte} (h : m ≠ 0) : openBits (m >>> 1) + 1 = openBits m := by
  have hshift : (m >>> 1).toNat = m.toNat / 2 := by simp [Nat.shiftRight_eq_div_pow]
  have hzero : m >>> 1 = 0 ↔ m.toNat < 2 := by
    rw [← BitVec.toNat_inj, hshift]
    simp
  rw [openBits, openBits, if_neg h, hshift, Nat.log2_def m.toNat]
  by_cases h2 : m.toNat < 2
  · rw [if_pos (hzero.mpr h2), if_neg (by omega)]
  · rw [if_neg (mt hzero.mp h2), if_pos (by omega)]

/-- The bits the writer can still take: the pending backtrack bit, those of the open bit byte, and those of the bytes that `OUT` has left. -/
def State.bitRoom (s : State) : Nat :=
  (if s.wBacktrack then 1 else 0) + openBits s.wMask + 8 * (s.cfg.outCap.toNat - s.outLen.toNat)

/-- The bytes that the writer's registers name exist. -/
structure State.WriterReady (s : State) : Prop where
  pending : s.wBacktrack = true → 1 ≤ s.outLen ∧ s.outLen ≤ s.cfg.outCap
  index : s.wMask ≠ 0 → s.wIndex < s.cfg.outCap

/-- A bit for which there is room is written and takes the room of one bit. -/
theorem writeBit_of_bitRoom {s : State} (b : Bool) (hr : s.WriterReady) (hroom : 1 ≤ s.bitRoom) :
    ∃ t, writeBit b s = .ok () t ∧ t.WriterReady ∧ t.bitRoom + 1 = s.bitRoom := by
  cases hb : s.wBacktrack with
  | true =>
    obtain ⟨hpos, hcap⟩ := hr.pending hb
    refine ⟨_, writeBit_of_pending hb fun _ => by bv_omega, ⟨nofun, hr.index⟩, ?_⟩
    simp [State.bitRoom, hb]
    omega
  | false =>
    by_cases hm : s.wMask = 0
    · have hlt : s.outLen < s.cfg.outCap := by
        simp [State.bitRoom, hb, hm, openBits] at hroom
        bv_omega
      refine ⟨_, writeBit_of_closed hb hm hlt, ⟨fun h => ?_, fun _ => hlt⟩, ?_⟩
      · simp [hb] at h
      · have hmask : openBits 0 = 0 ∧ openBits 0x40 = 7 := by decide
        have hlen : (s.outLen + 1).toNat = s.outLen.toNat + 1 := by bv_omega
        simp only [State.bitRoom, State.filled_wBacktrack, State.filled_outLen, State.filled_cfg, State.reserved_wBacktrack,
          State.reserved_outLen, State.reserved_cfg, hb, hm, hmask, hlen]
        bv_omega
    · refine ⟨_, writeBit_of_open hb hm fun _ => hr.index hm, ⟨fun h => ?_, fun _ => hr.index hm⟩, ?_⟩
      · simp [hb] at h
      · have := openBits_shift hm
        simp [State.bitRoom, hb]
        omega

theorem writeAll_of_bitRoom {bits : List Bool} {s : State} (hr : s.WriterReady) (hroom : bits.length ≤ s.bitRoom) :
    ∃ t, writeAll bits s = .ok () t := by
  induction bits generalizing s with
  | nil => exact ⟨s, rfl⟩
  | cons b bits ih =>
    rw [List.length_cons] at hroom
    obtain ⟨u, hu, hr', he⟩ := writeBit_of_bitRoom b hr (by omega)
    rw [writeAll, hu]
    exact ih hr' (by omega)

/-- What the statements assume of a writer that is to take `n` bits: there is room for them. -/
theorem State.writesBits_room {s : State} {n : Nat} (h : s.writesBits n) : s.fault = false ∧ s.WriterReady ∧ n ≤ s.bitRoom := by
  obtain ⟨hf, hpending, hindex, hroom⟩ := h
  refine ⟨hf, ⟨hpending, hindex⟩, ?_⟩
  simp only [State.roomFor] at hroom
  simp only [State.bitRoom]
  omega

/-- Bits for which there is room, written within one transaction and by one for each. -/
theorem writeAll_and_after_of_writesBits {bits : List Bool} {s : State} (h : s.writesBits bits.length) :
    ∃ t u, writeAll bits s = .ok () t ∧ after (writeBits bits) s = some u ∧ u.answered [] = t.answered [] := by
  obtain ⟨hf, hr, hroom⟩ := State.writesBits_room h
  obtain ⟨t, ht⟩ := writeAll_of_bitRoom hr hroom
  obtain ⟨u, hu, he⟩ := after_writeBits hf ht
  exact ⟨t, u, ht, hu, he⟩

theorem exec_writeBits (value size : Word) (s : State) :
    exec (.writeBits value size) s = operation (quiet fun s =>
      if 32 < size then .raised .malformedToken s else writeAll (bitsOf (s.cfg.fit value) size.toNat) s) s := rfl

/-- Settles O14. -/
theorem writeBitsEffect : Obligations.WriteBitsEffect := by
  intro s value size
  refine ⟨fun hsize hw => ?_, fun hf hsize => quietOperation_raised hf (if_pos hsize)⟩
  obtain ⟨t, u, ht, hu, he⟩ :=
    writeAll_and_after_of_writesBits (bits := msbFirst (s.cfg.fit value).toNat size.toNat) (by simpa using hw)
  refine ⟨u, hu, ?_⟩
  rw [he, exec_writeBits]
  refine quietOperation_ok (State.writesBits_room hw).1 ?_
  rw [if_neg (BitVec.not_lt.mpr hsize), bitsOf_eq_msbFirst]
  exact ht

/-! ## `READ_BITS` -/

/-- `READ_BITS` returns the number of `n` bits that the next bits spell. -/
theorem readField_of_reads {v : Word} {n : Nat} {s t : State} (hv : v.toNat < 2 ^ n)
    (h : s.reads (bitElems (msbFirst v.toNat n)) t) : readField statePort n s = .ok v t := by
  rw [← bitsOf_eq_msbFirst] at h
  exact readField_spells hv s t (statePort_reads_of_reads h)

theorem exec_readBits (size : Word) (s : State) :
    exec (.readBits size) s = operation (fun s =>
      if 32 < size then .raised .malformedToken s else (readField statePort size.toNat s).map fun v => [v]) s := rfl

/-- Settles O18. -/
theorem readBitsEffect : Obligations.ReadBitsEffect := by
  intro s t size v hf
  rw [exec_readBits, operation_runs hf]
  refine ⟨fun hsize hv h => ?_, fun hsize => by rw [if_pos hsize]⟩
  rw [if_neg (BitVec.not_lt.mpr hsize), readField_of_reads hv h]
  rfl

end Sys2Proof.Machine
end

section
/-! PROOFS. Writing and reading back (40_bitio.md R132 to R134). A bit of `OUT` is settled once no later primitive can change it: every bit but those
that the bit byte in use has still to take. Each primitive settles one more bit or byte and keeps what is settled, so that a reader that stands in the
finished stream where the writer stood finds it there. -/

namespace Sys2Proof.Machine

-- No concurrency, as in the tests.
set_option Elab.async false

/-! ## Transactions that take no fault -/

theorem quietOperation_eq_next {body : State → Res State Fault Unit} {s t : State}
    (h : operation (quiet body) s = .next t) (ht : t.fault = false) : ∃ u, body s = .ok () u ∧ t = u.answered [] := by
  cases hf : s.fault with
  | true =>
    rw [operation_faulted hf] at h
    cases h
    simp [hf] at ht
  | false =>
    rw [operation_runs hf] at h
    cases hb : body s with
    | ok a u =>
      rw [quiet_of_ok hb] at h
      cases h
      exact ⟨u, rfl, rfl⟩
    | raised k u =>
      rw [quiet_of_raised hb] at h
      cases h
      simp at ht
    | stuck f => simp [quiet, hb] at h

/-! ## Masks of an open bit byte -/

/-- The mask of a bit byte that can still take `k` bits (10_state.md R22, R23). -/
def openMask : Nat → Byte
  | 0 => 0
  | k + 1 => BitVec.twoPow 8 k

theorem openMask_ne_zero {k : Nat} (hk : k < 8) : openMask (k + 1) ≠ 0 := by
  revert k
  decide

theorem openMask_shift {k : Nat} (hk : k < 8) : openMask (k + 1) >>> 1 = openMask k := by
  revert k
  decide

/-! ## The writer between two primitives -/

/-- The writer between two primitives, when the open bit byte can still take `k` bits: these are clear, and every byte of `OUT` holds a value. -/
structure State.Writing (s : State) (k : Nat) : Prop where
  fault : s.fault = false
  noPending : s.wBacktrack = false
  bound : k ≤ 8
  mask : s.wMask = openMask k
  index : 0 < k → s.wIndex < s.outLen
  clear : ∀ i, i < k → (s.outByte s.wIndex.toNat).getLsbD i = false
  written : ∀ a, a < s.outLen.toNat → (Memory.read s.out a).isSome = true

/-- A bit of `OUT` that the writer has passed, when the open bit byte can still take `k` bits. -/
def State.Settled (s : State) (k a i : Nat) : Prop := a < s.outLen.toNat ∧ (a = s.wIndex.toNat → k ≤ i)

/-- What the writer had settled is settled, and the same, in a later state. -/
def State.Keeps (s : State) (k : Nat) (t : State) (j : Nat) : Prop :=
  ∀ a i, s.Settled k a i → t.Settled j a i ∧ (t.outByte a).getLsbD i = (s.outByte a).getLsbD i

theorem State.Keeps.refl (s : State) (k : Nat) : s.Keeps k s k := fun _ _ h => ⟨h, rfl⟩

theorem State.Keeps.trans {s t u : State} {k j i : Nat} (h₁ : s.Keeps k t j) (h₂ : t.Keeps j u i) : s.Keeps k u i := by
  intro a n hs
  obtain ⟨ht, e₁⟩ := h₁ a n hs
  obtain ⟨hu, e₂⟩ := h₂ a n ht
  exact ⟨hu, e₂.trans e₁⟩

/-- Where an element has gone: a bit into the open bit byte, or into the top of a new one if none was open; a byte behind everything
else (R121, R122). -/
def State.Took (s : State) (k : Nat) (t : State) (j : Nat) : Elem → Prop
  | .bit b =>
    (k = 0 ∧ j = 7 ∧ t.wIndex = s.outLen ∧ t.outLen = s.outLen + 1 ∧ t.outLen.toNat = s.outLen.toNat + 1 ∨
      k = j + 1 ∧ t.wIndex = s.wIndex ∧ t.outLen = s.outLen) ∧
    j < 8 ∧ t.Settled j t.wIndex.toNat j ∧ (t.outByte t.wIndex.toNat).getLsbD j = b
  | .byte v =>
    (j = k ∧ t.wIndex = s.wIndex ∧ t.outLen = s.outLen + 1 ∧ t.outLen.toNat = s.outLen.toNat + 1) ∧
    (∀ i, t.Settled k s.outLen.toNat i) ∧ t.outByte s.outLen.toNat = v

/-- The writer has put one element into the stream. -/
structure State.Adds (s : State) (k : Nat) (e : Elem) (t : State) (j : Nat) : Prop where
  writing : t.Writing j
  keeps : s.Keeps k t j
  took : s.Took k t j e

section Answered
variable {s t : State} {k j : Nat} {e : Elem} (ws : List Word)

/-- Nothing of this is about the response. -/
theorem State.Writing.answered (h : s.Writing k) : (s.answered ws).Writing k :=
  ⟨h.fault, h.noPending, h.bound, h.mask, h.index, h.clear, h.written⟩

theorem State.Adds.answered (h : s.Adds k e t j) : s.Adds k e (t.answered ws) j :=
  ⟨h.writing.answered ws, h.keeps, by cases e <;> exact h.took⟩

end Answered

/-! ### One bit -/

theorem State.outByte_congr {s t : State} (hout : t.out = s.out) (hlen : t.outLen = s.outLen) (hepoch : t.epoch = s.epoch)
    (a : Nat) : t.outByte a = s.outByte a := by
  simp only [State.outByte, hout, hlen, hepoch]

/-- The bits of a byte of `OUT` once one bit has been written. -/
theorem State.getLsbD_outByte_filled {s : State} {b : Bool} {a : Word} {n c i : Nat} (hn : n < 8) (hc : c < s.outLen.toNat) :
    ((s.filled b a (BitVec.twoPow 8 n)).outByte c).getLsbD i =
      ((s.outByte c).getLsbD i || (b && decide (c = a.toNat) && decide (i = n))) := by
  by_cases hbc : b = true ∧ c = a.toNat
  · obtain ⟨rfl, rfl⟩ := hbc
    have hbyte : (s.filled true a (BitVec.twoPow 8 n)).outByte a.toNat = s.outByte a.toNat ||| BitVec.twoPow 8 n :=
      State.outByte_of_read hc (by simp only [State.read_filled, and_self, if_true])
    simp [hbyte, BitVec.getLsbD_or, BitVec.getLsbD_twoPow, hn, eq_comm]
  · have hsame : (s.filled b a (BitVec.twoPow 8 n)).outByte c = s.outByte c := by
      simp only [State.outByte, State.read_filled, if_neg hbc, State.filled_outLen, State.filled_epoch]
    rw [hsame]
    cases b with
    | false => simp
    | true => simp [show c ≠ a.toNat from fun h => hbc ⟨rfl, h⟩]

theorem State.isSome_read_filled {s : State} {a : Word} (b : Bool) (bits : Byte) {c : Nat} (h : (Memory.read s.out c).isSome = true) :
    (Memory.read (s.filled b a bits).out c).isSome = true := by
  rw [State.read_filled]
  split
  · rfl
  · exact h

/-- A bit into the open bit byte. -/
theorem State.Writing.adds_bit_of_open {s t : State} {k : Nat} {b : Bool} (h : s.Writing (k + 1)) (ht : writeBit b s = .ok () t) :
    s.Adds (k + 1) (.bit b) t k := by
  have hk : k < 8 := h.bound
  have hindex : s.wIndex.toNat < s.outLen.toNat := h.index (by omega)
  have hm : s.wMask = BitVec.twoPow 8 k := h.mask
  have ht : t = { s.filled b s.wIndex (BitVec.twoPow 8 k) with wMask := openMask k } := by
    obtain ⟨hb, -⟩ | ⟨-, -, -, e⟩ | ⟨-, hm', -⟩ := writeBit_paths ht
    · rw [h.noPending] at hb; cases hb
    · rw [e, hm, ← openMask_shift hk, openMask]
    · exact absurd (hm.symm.trans hm') (openMask_ne_zero hk)
  have hlen : t.outLen = s.outLen := by rw [ht]; rfl
  have hsame : t.wIndex = s.wIndex := by rw [ht]; rfl
  have hbits : ∀ c i, c < s.outLen.toNat → (t.outByte c).getLsbD i =
      ((s.outByte c).getLsbD i || (b && decide (c = s.wIndex.toNat) && decide (i = k))) := by
    intro c i hc
    rw [← State.getLsbD_outByte_filled hk hc, State.outByte_congr (t := t)] <;> rw [ht]
  have hwriting : t.Writing k := {
    fault := by rw [ht]; exact h.fault
    noPending := by rw [ht]; exact h.noPending
    bound := by omega
    mask := by rw [ht]
    index := fun _ => by rw [hlen, hsame]; exact hindex
    clear := fun i hi => by
      rw [hsame, hbits _ _ hindex, h.clear i (by omega)]
      simp [show i ≠ k by omega]
    written := fun a ha => by
      rw [ht]
      exact State.isSome_read_filled b _ (h.written a (hlen ▸ ha)) }
  have hkeeps : s.Keeps (k + 1) t k := by
    intro a i ⟨ha, hi⟩
    refine ⟨⟨hlen ▸ ha, fun e => ?_⟩, ?_⟩
    · have := hi (hsame ▸ e)
      omega
    · have : ¬ (a = s.wIndex.toNat ∧ i = k) := fun e => by have := hi e.1; omega
      simp [hbits a i ha, Bool.and_assoc, ← Bool.decide_and, this]
  refine ⟨hwriting, hkeeps, .inr ⟨rfl, hsame, hlen⟩, hk, ⟨by rw [hsame, hlen]; exact hindex, fun _ => le_rfl⟩, ?_⟩
  rw [hsame, hbits _ _ hindex, h.clear k (by omega)]
  simp

/-! ### One byte -/

/-- A byte at the end of `OUT`. -/
theorem State.Writing.adds_byte {s t : State} {k : Nat} {v : Byte} (h : s.Writing k) (ht : putByte v s = .ok () t) :
    s.Adds k (.byte v) t k := by
  obtain ⟨-, happ⟩ := putByte_ok ht
  have ⟨hframe, hlen, hin, hout⟩ := happ
  have hlen' : t.outLen = s.outLen + 1 := by bv_omega
  have hsame : t.wIndex = s.wIndex := by rw [hframe]
  have hold : ∀ a, a < s.outLen.toNat → t.outByte a = s.outByte a := fun a ha => State.appends_outByte happ ha
  have hnew : t.outByte s.outLen.toNat = v := State.outByte_of_read (by omega) (hin 0 (by omega))
  have hwriting : t.Writing k := {
    fault := by rw [hframe]; exact h.fault
    noPending := by rw [hframe]; exact h.noPending
    bound := h.bound
    mask := by rw [hframe]; exact h.mask
    index := fun hk => by
      have hindex := h.index hk
      rw [hsame]
      bv_omega
    clear := fun i hi => by
      have hindex := h.index (by omega)
      rw [hsame, hold _ hindex]
      exact h.clear i hi
    written := fun a ha => by
      by_cases hl : a < s.outLen.toNat
      · rw [hout a (.inl hl)]
        exact h.written a hl
      · obtain rfl : a = s.outLen.toNat := by omega
        rw [show Memory.read t.out s.outLen.toNat = some v from hin 0 (by omega)]
        rfl }
  refine ⟨hwriting, fun a i ⟨ha, hi⟩ => ⟨⟨by omega, hsame ▸ hi⟩, by rw [hold a ha]⟩, ⟨rfl, hsame, hlen', hlen⟩,
    fun i => ⟨by omega, fun e => ?_⟩, hnew⟩
  by_contra hk
  have : s.wIndex.toNat < s.outLen.toNat := h.index (by omega)
  rw [hsame] at e
  omega

/-- A reserved bit byte can take eight bits. -/
theorem State.Writing.reserved {s : State} (h : s.Writing 0) (hroom : s.outLen < s.cfg.outCap) :
    s.reserved.Writing 8 ∧ s.Keeps 0 s.reserved 8 := by
  have hput := h.adds_byte (putByte_of_room (v := 0) hroom)
  obtain ⟨⟨-, -, -, hlen⟩, -, hnew⟩ := hput.took
  have hzero : s.reserved.outByte s.outLen.toNat = 0 := hnew
  refine ⟨⟨h.fault, h.noPending, le_rfl, rfl, fun _ => ?_, fun i _ => ?_, hput.writing.written⟩, fun a i hs => ?_⟩
  · simp only [State.reserved_wIndex, State.reserved_outLen]
    bv_omega
  · simp [hzero]
  · obtain ⟨⟨hlt, -⟩, hsame⟩ := hput.keeps a i hs
    refine ⟨⟨hlt, fun e => ?_⟩, hsame⟩
    have := hs.1
    rw [State.reserved_wIndex] at e
    omega

/-- A bit for which a byte has to be reserved goes into the open byte that this gives (R121). -/
theorem State.Writing.adds_bit_of_closed {s t : State} {b : Bool} (h : s.Writing 0) (ht : writeBit b s = .ok () t) :
    s.Adds 0 (.bit b) t 7 := by
  obtain ⟨hb, -⟩ | ⟨-, hm, -⟩ | ⟨hb, hm, hroom, e⟩ := writeBit_paths ht
  · rw [h.noPending] at hb; cases hb
  · exact absurd h.mask hm
  obtain ⟨hw, hkeeps⟩ := h.reserved hroom
  have hopen : writeBit b s.reserved = .ok () t := by
    rw [e, writeBit_of_open hw.noPending (by rw [State.reserved_wMask]; decide) fun _ => hroom, State.reserved_wMask,
      State.reserved_wIndex, show (0x80 : Byte) >>> 1 = 0x40 by decide]
  have hadds := hw.adds_bit_of_open hopen
  obtain ⟨hplace, hj, hsettled, hbit⟩ := hadds.took
  obtain ⟨h₀, -⟩ | ⟨-, hindex, hlen⟩ := hplace
  · cases h₀
  refine ⟨hadds.writing, hkeeps.trans hadds.keeps, .inl ⟨rfl, rfl, hindex, hlen, ?_⟩, hj, hsettled, hbit⟩
  rw [hlen, State.reserved_outLen]
  bv_omega

/-- A bit, on either path. -/
theorem State.Writing.adds_bit {s t : State} {k : Nat} {b : Bool} (h : s.Writing k) (ht : writeBit b s = .ok () t) :
    ∃ j, s.Adds k (.bit b) t j := by
  cases k with
  | zero => exact ⟨7, h.adds_bit_of_closed ht⟩
  | succ k => exact ⟨k, h.adds_bit_of_open ht⟩

/-! ### One primitive -/

/-- The element that a primitive puts into the stream. -/
def Prim.elem : Prim → Elem
  | .bit b => .bit b
  | .byte v => .byte v
  | .shared v b => .byte (v ||| if b then 1 else 0)

/-- What a primitive adds to the size of the stream, in bits. -/
def Prim.cost : Prim → Nat
  | .bit _ => 1
  | .byte _ => 8
  | .shared _ _ => 8

/-- The bits that are written count eight for each byte of `OUT`, less the open ones. -/
theorem State.Adds.size {s t : State} {k j : Nat} {p : Prim} (h : s.Adds k p.elem t j) :
    8 * t.outLen.toNat + k = 8 * s.outLen.toNat + j + p.cost := by
  cases p with
  | bit b =>
    obtain ⟨⟨hk, hj, -, -, hlen⟩ | ⟨hk, -, hlen⟩, -⟩ := h.took
    · simp only [Prim.cost]
      omega
    · simp only [Prim.cost, hlen]
      omega
  | byte | shared =>
    obtain ⟨⟨hj, -, -, hlen⟩, -⟩ := h.took
    simp only [Prim.cost]
    omega

/-- The bits of a byte that carries a bit in bit 0. -/
theorem getLsbD_or_bit (v : Byte) (b : Bool) (i : Nat) :
    (v ||| if b then 1 else 0).getLsbD i = (v.getLsbD i || (b && decide (i = 0))) := by
  cases b <;> simp [BitVec.getLsbD_or, BitVec.getLsbD_one]

/-- A bit that goes into bit 0 of the byte before it (R124). -/
theorem State.Adds.backtrack {s t u : State} {k : Nat} {v : Byte} {b : Bool} (h : s.Adds k (.byte v) t k)
    (hu : writeBit b { t with wBacktrack := true } = .ok () u) : s.Adds k (.byte (v ||| if b then 1 else 0)) u k := by
  obtain ⟨⟨-, htindex, htlen, hlen⟩, hsettled, hbyte⟩ := h.took
  have hlast : t.outLen - 1 = s.outLen := by bv_omega
  have hu : u = { t.filled b s.outLen (BitVec.twoPow 8 0) with wBacktrack := false } := by
    obtain ⟨-, -, e⟩ | ⟨hb, -⟩ | ⟨hb, -⟩ := writeBit_paths hu
    · rw [e, hlast]
      rfl
    · cases hb
    · cases hb
  have hulen : u.outLen = t.outLen := by rw [hu]; rfl
  have huindex : u.wIndex = t.wIndex := by rw [hu]; rfl
  have hbits : ∀ c i, c < t.outLen.toNat → (u.outByte c).getLsbD i =
      ((t.outByte c).getLsbD i || (b && decide (c = s.outLen.toNat) && decide (i = 0))) := by
    intro c i hc
    rw [← State.getLsbD_outByte_filled (by decide) hc, State.outByte_congr (t := u)] <;> rw [hu]
  have hwriting : u.Writing k := {
    fault := by rw [hu]; exact h.writing.fault
    noPending := by rw [hu]
    bound := h.writing.bound
    mask := by rw [hu]; exact h.writing.mask
    index := by rw [hulen, huindex]; exact h.writing.index
    clear := fun i hi => by
      have hopen : t.wIndex.toNat ≠ s.outLen.toNat := fun e => by
        have := (hsettled 0).2 e.symm
        omega
      rw [huindex, hbits _ _ (h.writing.index (by omega)), h.writing.clear i hi]
      simp [hopen]
    written := fun a ha => by
      rw [hu]
      exact State.isSome_read_filled b _ (h.writing.written a (hulen ▸ ha)) }
  have hkeeps : s.Keeps k u k := by
    intro a i hs
    obtain ⟨⟨hlt, hi⟩, hsame⟩ := h.keeps a i hs
    have hold : a ≠ s.outLen.toNat := hs.1.ne
    exact ⟨⟨hulen ▸ hlt, huindex ▸ hi⟩, by simp [hbits a i hlt, hsame, hold]⟩
  refine ⟨hwriting, hkeeps, ⟨rfl, huindex.trans htindex, hulen.trans htlen, hulen ▸ hlen⟩,
    fun i => ⟨hulen ▸ (hsettled i).1, huindex ▸ (hsettled i).2⟩, BitVec.eq_of_getLsbD_eq fun i _ => ?_⟩
  rw [hbits _ _ (hsettled 0).1, hbyte, getLsbD_or_bit]
  simp

theorem exec_writeByte_eq_next {v : Byte} {s t : State} (h : exec (.writeByte (v.setWidth 32)) s = .next t)
    (ht : t.fault = false) : ∃ u, putByte v s = .ok () u ∧ t = u.answered [] := by
  have hv : (v.setWidth 32).setWidth 8 = v := by bv_omega
  rw [exec_writeByte, hv] at h
  exact quietOperation_eq_next h ht

theorem exec_writeBit_eq_next {b : Bool} {s t : State} (h : exec (.writeBit (if b then 1 else 0)) s = .next t)
    (ht : t.fault = false) : ∃ u, writeBit b s = .ok () u ∧ t = u.answered [] := by
  rw [exec_writeBit, bitOperand_ne_zero] at h
  exact quietOperation_eq_next h ht

theorem exec_wSetBacktrack_eq_next {s t : State} (h : exec .wSetBacktrack s = .next t)
    (ht : t.fault = false) : t = State.answered [] { s with wBacktrack := true } := by
  obtain ⟨u, hu, rfl⟩ := quietOperation_eq_next h ht
  split at hu
  · cases hu
  · cases hu
    rfl

/-- The operations of a primitive put its element into the stream. -/
theorem Prim.adds_of_writes {p : Prim} {s t : State} {k : Nat} (h : s.Writing k) (hk : k ≤ 7)
    (ht : after p.writes s = some t) : ∃ j, s.Adds k p.elem t j ∧ j ≤ 7 := by
  cases p with
  | bit b =>
    obtain ⟨t', hx, hf, e⟩ := after_cons_eq_some.mp ht
    cases e
    obtain ⟨u, hu, rfl⟩ := exec_writeBit_eq_next hx hf
    obtain ⟨j, hadds⟩ := h.adds_bit hu
    obtain ⟨-, hj, -⟩ := hadds.took
    exact ⟨j, hadds.answered [], by omega⟩
  | byte v =>
    obtain ⟨t', hx, hf, e⟩ := after_cons_eq_some.mp ht
    cases e
    obtain ⟨u, hu, rfl⟩ := exec_writeByte_eq_next hx hf
    exact ⟨k, (h.adds_byte hu).answered [], hk⟩
  | shared v b =>
    obtain ⟨r', hr', hrf, ht⟩ := after_cons_eq_some.mp ht
    obtain ⟨q, hq, hqf, ht⟩ := after_cons_eq_some.mp ht
    obtain ⟨t', hx, hf, e⟩ := after_cons_eq_some.mp ht
    cases e
    obtain ⟨r, hr, rfl⟩ := exec_writeByte_eq_next hr' hrf
    obtain rfl := exec_wSetBacktrack_eq_next hq hqf
    obtain ⟨u, hu, rfl⟩ := exec_writeBit_eq_next hx hf
    have hbyte := ((h.adds_byte hr).answered []).answered []
    exact ⟨k, (hbyte.backtrack hu).answered [], hk⟩

/-! ### A sequence of primitives -/

/-- A sequence of primitives keeps what was settled before it, and the size of the stream is that of its elements. -/
theorem writes_keep {ps : List Prim} {s t : State} {k : Nat} (h : s.Writing k) (hk : k ≤ 7)
    (ht : after (ps.flatMap Prim.writes) s = some t) :
    ∃ j, j ≤ 7 ∧ s.Keeps k t j ∧ t.Writing j ∧ 8 * t.outLen.toNat + k = 8 * s.outLen.toNat + j + (ps.map Prim.cost).sum := by
  induction ps generalizing s k with
  | nil =>
    cases ht
    exact ⟨k, hk, State.Keeps.refl s k, h, rfl⟩
  | cons p ps ih =>
    obtain ⟨r, hr, ht⟩ := after_append_eq_some.mp ht
    obtain ⟨i, hadds, hi⟩ := Prim.adds_of_writes h hk hr
    obtain ⟨j, hj, hkeeps, hw, hsize⟩ := ih hadds.writing hi ht
    refine ⟨j, hj, hadds.keeps.trans hkeeps, hw, ?_⟩
    have := hadds.size
    rw [List.map_cons, List.sum_cons]
    omega

/-- `BW_INIT` leaves the writer without an open bit byte (R120). -/
theorem writing_after_bwInit (s : State) : (s.clearFault.bwStart.answered []).Writing 0 where
  fault := s.clearFault_fault
  noPending := rfl
  bound := by omega
  mask := rfl
  index := nofun
  clear := nofun
  written := nofun

/-- A sequence of primitives after `BW_INIT` begins with the empty stream. -/
theorem after_bwInit_eq_some {is : List Instr} {s t : State} (h : after (.bwInit :: is) s = some t) :
    ∃ r : State, r.Writing 0 ∧ r.outLen = 0 ∧ after is r = some t := by
  obtain ⟨r, hr, -, ht⟩ := after_cons_eq_some.mp h
  rw [exec_bwInit] at hr
  cases hr
  exact ⟨_, writing_after_bwInit s, rfl, ht⟩

theorem sum_cost_eq (ps : List Prim) :
    (ps.map Prim.cost).sum = 8 * (ps.filter fun p => p.bits = 0).length + (ps.filter fun p => p.bits = 1).length := by
  induction ps with
  | nil => rfl
  | cons p ps ih =>
    cases p <;> simp [Prim.cost, Prim.bits, ih] <;> omega

/-- Settles O20: the bits counted by `writes_keep`, of which at most seven are still open at the end. -/
theorem writtenSize : Obligations.WrittenSize := by
  intro ps s t ht
  obtain ⟨r, hr, hzero, ht⟩ := after_bwInit_eq_some ht
  obtain ⟨j, hj, -, -, hsize⟩ := writes_keep hr (by omega) ht
  rw [sum_cost_eq, hzero, show (0 : Word).toNat = 0 from rfl] at hsize
  omega

/-! ## The reader behind the writer -/

/-- The reader stands, in the finished stream of `t`, where the writer `s` with `k` open bits stood. -/
structure State.Follows (u s : State) (k : Nat) (t : State) : Prop where
  fault : u.fault = false
  noPending : u.rBacktrack = false
  forwards : u.dMirror = false
  length : u.srcLen = t.outLen
  legal : u.srcLen ≤ u.cfg.srcCap
  bytes : ∀ a, a < t.outLen.toNat → Memory.read u.src a = some (t.outByte a)
  pos : u.rPos = s.outLen
  mask : u.rMask = openMask k
  index : 0 < k → u.rIndex = s.wIndex

theorem State.Follows.answered {u s t : State} {k : Nat} (h : u.Follows s k t) (ws : List Word) :
    (u.answered ws).Follows s k t :=
  ⟨h.fault, h.noPending, h.forwards, h.length, h.legal, h.bytes, h.pos, h.mask, h.index⟩

/-- The stream at the reader is what was written. -/
theorem State.Follows.read_src {u s t : State} {k : Nat} (h : u.Follows s k t) {a : Word} (ha : a.toNat < t.outLen.toNat) :
    a < u.srcLen ∧ Memory.read u.src (u.physical a.toNat) = some (t.outByte a.toNat) := by
  refine ⟨by rw [h.length]; exact ha, ?_⟩
  rw [State.physical, h.forwards]
  exact h.bytes _ ha

/-- The reader reads back a bit, and goes on behind it. -/
theorem State.Follows.reads_bit {u s r t : State} {k j i : Nat} {b : Bool} (h : u.Follows s k t) (hadds : s.Adds k (.bit b) r j)
    (hkeeps : r.Keeps j t i) : ∃ w, readBit u = .ok b w ∧ w.Follows r j t := by
  obtain ⟨hplace, hj, hsettled, hbit⟩ := hadds.took
  obtain ⟨⟨hend, -⟩, hsame⟩ := hkeeps _ _ hsettled
  rw [hbit] at hsame
  obtain ⟨rfl, rfl, hindex, hlen, -⟩ | ⟨rfl, hindex, hlen⟩ := hplace
  · have hpos : u.rPos = r.wIndex := h.pos.trans hindex.symm
    obtain ⟨hlt, hloaded⟩ := h.read_src (a := u.rPos) (by rw [hpos]; exact hend)
    have hread := readBit_of_closed h.noPending h.mask hlt h.legal
    rw [State.srcByte_of_read hloaded, show (t.outByte u.rPos.toNat).getLsbD 7 = b by rw [hpos]; exact hsame] at hread
    refine ⟨_, hread, h.fault, h.noPending, h.forwards, h.length, h.legal, h.bytes, ?_, rfl, fun _ => hpos⟩
    rw [hlen, ← h.pos]
  · have hpos : u.rIndex = r.wIndex := (h.index (by omega)).trans hindex.symm
    have hmask : u.rMask = BitVec.twoPow 8 j := h.mask
    obtain ⟨hlt, hloaded⟩ := h.read_src (a := u.rIndex) (by rw [hpos]; exact hend)
    have hread := readBit_of_open h.noPending (by rw [h.mask]; exact openMask_ne_zero hj) hlt h.legal
    rw [State.srcByte_of_read hloaded, hmask, and_twoPow_ne_zero _ hj, hpos, hsame] at hread
    exact ⟨_, hread, h.fault, h.noPending, h.forwards, h.length, h.legal, h.bytes, by rw [hlen]; exact h.pos,
      openMask_shift hj, fun _ => rfl⟩

/-- The reader reads back a byte, and goes on behind it. -/
theorem State.Follows.reads_byte {u s r t : State} {k j i : Nat} {v : Byte} (h : u.Follows s k t) (hadds : s.Adds k (.byte v) r j)
    (hkeeps : r.Keeps j t i) : ∃ w, readByte u = .ok v w ∧ w.Follows r j t ∧ w.rLast = v := by
  obtain ⟨⟨rfl, hindex, hlen, -⟩, hsettled, hbyte⟩ := hadds.took
  have hsame : t.outByte s.outLen.toNat = v := by
    rw [← hbyte]
    exact BitVec.eq_of_getLsbD_eq fun i _ => (hkeeps _ i (hsettled i)).2
  obtain ⟨hlt, hread⟩ := h.read_src (a := u.rPos) (by rw [h.pos]; exact (hkeeps _ 0 (hsettled 0)).1.1)
  rw [h.pos, hsame, ← h.pos] at hread
  refine ⟨_, readByte_of_loaded hlt h.legal hread,
    ⟨h.fault, h.noPending, h.forwards, h.length, h.legal, h.bytes, ?_, h.mask, fun hk => ?_⟩, rfl⟩
  · rw [hlen, h.pos]
  · exact (h.index hk).trans hindex.symm

theorem exec_readBit_of_ok {b : Bool} {s t : State} (hf : s.fault = false) (h : readBit s = .ok b t) :
    exec .readBit s = .next (t.answered [if b then 1 else 0]) := by
  rw [exec_readBit, mapOperation_of_ok hf h, bitWord_eq_ite]

theorem exec_readByte_of_ok {v : Byte} {s t : State} (hf : s.fault = false) (h : readByte s = .ok v t) :
    exec .readByte s = .next (t.answered [v.setWidth 32]) := by
  rw [exec_readByte, mapOperation_of_ok hf h]

theorem exec_rSetBacktrack {s : State} (hf : s.fault = false) :
    exec .rSetBacktrack s = .next (State.answered [] { s with rBacktrack := true }) :=
  quietOperation_ok hf rfl

/-- A byte that carries a bit, as a result word. -/
theorem setWidth_or_bit (v : Byte) (b : Bool) :
    (v ||| if b then 1 else 0 : Byte).setWidth 32 = (v.setWidth 32 ||| if b then 1 else 0 : Word) := by
  cases b <;> simp [BitVec.setWidth_or]

/-- The bit that a byte carries is read from bit 0 of the last byte, and takes nothing from the stream (R126, R130). -/
theorem State.Follows.read_shared_bit {u s t : State} {k : Nat} {b : Bool} (h : u.Follows s k t) (hb : u.rLast.getLsbD 0 = b) :
    ∃ w, runAll [.rSetBacktrack, .readBit] u = some ([[], [if b then 1 else 0]], w) ∧ w.Follows s k t := by
  have hread := readBit_of_pending (s := State.answered [] { u with rBacktrack := true }) rfl
  rw [State.answered_rLast, hb] at hread
  refine ⟨_, runAll_cons_eq_some.mpr ⟨_, _, exec_rSetBacktrack h.fault, h.fault,
    runAll_cons_eq_some.mpr ⟨_, [], exec_readBit_of_ok h.fault hread, h.fault, rfl, rfl⟩, rfl⟩, ?_⟩
  exact ⟨h.fault, rfl, h.forwards, h.length, h.legal, h.bytes, h.pos, h.mask, h.index⟩

/-- The operations that read a primitive answer what was written, and go on behind it. -/
theorem Prim.reads_back {p : Prim} {u s r t : State} {k j i : Nat} (hok : p.ok = true) (h : u.Follows s k t)
    (hadds : s.Adds k p.elem r j) (hkeeps : r.Keeps j t i) :
    ∃ w, runAll p.reads u = some (p.results, w) ∧ w.Follows r j t := by
  cases p with
  | bit b =>
    obtain ⟨w, hread, hw⟩ := h.reads_bit hadds hkeeps
    exact ⟨_, runAll_cons_eq_some.mpr ⟨_, [], exec_readBit_of_ok h.fault hread, hw.fault, rfl, rfl⟩, hw.answered _⟩
  | byte v =>
    obtain ⟨w, hread, hw, -⟩ := h.reads_byte hadds hkeeps
    exact ⟨_, runAll_cons_eq_some.mpr ⟨_, [], exec_readByte_of_ok h.fault hread, hw.fault, rfl, rfl⟩, hw.answered _⟩
  | shared v b =>
    have hclear : v.getLsbD 0 = false := by simpa [Prim.ok] using hok
    obtain ⟨w, hbyte, hw, hlast⟩ := h.reads_byte hadds hkeeps
    have hshared : w.rLast.getLsbD 0 = b := by rw [hlast, getLsbD_or_bit, hclear]; simp
    obtain ⟨x, hx, hfollows⟩ := (hw.answered [(v ||| if b then 1 else 0).setWidth 32]).read_shared_bit hshared
    refine ⟨x, runAll_cons_eq_some.mpr ⟨_, _, exec_readByte_of_ok h.fault hbyte, hw.fault, hx, ?_⟩, hfollows⟩
    rw [State.answered_resp, setWidth_or_bit, Prim.results]

/-- A sequence of primitives, read from where the writer began it, ends at the end of what was written. -/
theorem reads_back {ps : List Prim} {u s t : State} {k : Nat} (hok : ps.all Prim.ok = true) (hs : s.Writing k) (hk : k ≤ 7)
    (ht : after (ps.flatMap Prim.writes) s = some t) (h : u.Follows s k t) :
    ∃ w, runAll (ps.flatMap Prim.reads) u = some (ps.flatMap Prim.results, w) ∧ w.rPos = w.srcLen := by
  induction ps generalizing u s k with
  | nil =>
    cases ht
    exact ⟨u, rfl, by rw [h.pos, h.length]⟩
  | cons p ps ih =>
    obtain ⟨hp, hps⟩ := by simpa using hok
    obtain ⟨r, hr, ht⟩ := after_append_eq_some.mp ht
    obtain ⟨j, hadds, hj⟩ := Prim.adds_of_writes hs hk hr
    obtain ⟨i, -, hkeeps, -⟩ := writes_keep hadds.writing hj ht
    obtain ⟨v, hv, hfollows⟩ := Prim.reads_back hp h hadds hkeeps
    obtain ⟨w, hw, hend⟩ := ih (by simpa using hps) hadds.writing hj ht hfollows
    exact ⟨w, runAll_append hv hw, hend⟩

/-- After `BR_INIT` the reader stands at the beginning of the stream (R125). -/
theorem follows_after_brInit {u s t : State} (hs : s.outLen = 0) (ht : ∀ a, a < t.outLen.toNat → (Memory.read t.out a).isSome = true)
    (hlen : u.srcLen = t.outLen) (hcap : u.srcLen ≤ u.cfg.srcCap)
    (hsrc : ∀ a, a < t.outLen.toNat → Memory.read u.src a = Memory.read t.out a) :
    (u.clearFault.brStart.answered []).Follows s 0 t where
  fault := u.clearFault_fault
  noPending := rfl
  forwards := rfl
  length := by simpa using hlen
  legal := by simpa using hcap
  bytes a ha := by
    obtain ⟨v, hv⟩ := Option.isSome_iff_exists.mp (ht a ha)
    simp [hsrc a ha, State.outByte_of_read ha hv, hv]
  pos := hs.symm
  mask := rfl
  index := nofun

/-- Settles O19: a reader that follows the writer primitive by primitive. -/
theorem primitiveRoundTrip : Obligations.PrimitiveRoundTrip := by
  intro ps s t u hok ht hlen hcap hsrc
  obtain ⟨r, hr, hzero, ht⟩ := after_bwInit_eq_some ht
  obtain ⟨_, -, -, hwriting, -⟩ := writes_keep hr (by omega) ht
  have hfollows := follows_after_brInit hzero hwriting.written hlen hcap hsrc
  obtain ⟨w, hw, hend⟩ := reads_back hok hr (by omega) ht hfollows
  exact ⟨w, runAll_cons_eq_some.mpr ⟨_, _, exec_brInit u, u.clearFault_fault, hw, rfl⟩, hend⟩

end Sys2Proof.Machine
end

section
/-! PROOFS. The transactions of the gamma unit (41_gamma.md). The writers write the codewords of R151, R158 and R163; the readers are those of the decoder, so
that a codeword is read as the port lemmas say, and what is left are the values that do not fit and the interlaced pairs that reach a limit. -/

namespace Sys2Proof.Machine

-- No concurrency, as in the tests.
set_option Elab.async false

/-! ## The codewords -/

theorem egCode_eq_codeEg (v : Word) : egCode v = codeEg v.toNat :=
  congrArg (List.replicate _ false ++ ·) (bitsOf_eq_msbFirst v _)

theorem igPairs_eq_flatMap (cont inverted : Bool) (v : Word) (n : Nat) :
    igPairs cont inverted v n =
      ((List.range n).reverse.flatMap fun i => [cont, v.toNat.testBit i ^^ inverted]) ++ [!cont] := by
  induction n with
  | zero => rfl
  | succ n ih => rw [igPairs, ih, List.range_succ]; simp; rfl

theorem igCode_eq_codeIg (cfg : Config) (inverted backwards : Bool) (v : Word) :
    igCode cfg inverted backwards v = codeIg (cfg.igCont ^^ backwards) inverted v.toNat :=
  igPairs_eq_flatMap _ _ _ _

theorem bbgCode_eq_codeBbg {v : Word} (h : v.toNat ≤ 65534) : bbgCode v = codeBbg v.toNat := by
  have hm : (BitVec.ofNat 32 (v.toNat + 1)).toNat = v.toNat + 1 := by
    rw [BitVec.toNat_ofNat, Nat.mod_eq_of_lt (by omega)]
  rw [bbgCode, bitsOf_eq_msbFirst, hm]
  rfl

theorem length_codeEg (v : Nat) : (codeEg v).length = 2 * Nat.log2 v + 1 := by
  simp [codeEg]
  omega

theorem length_codeIg (cont inverted : Bool) (v : Nat) : (codeIg cont inverted v).length = 2 * Nat.log2 v + 1 := by
  simp [codeIg, List.length_flatMap, Nat.mul_comm]

theorem length_codeBbg (v : Nat) : (codeBbg v).length = 2 * Nat.log2 (v + 1) + 1 := by
  simp [codeBbg]
  omega

/-! ## Interlaced pairs (R160) -/

theorem shiftIn_toNat (v : Word) (b : Bool) : (shiftIn v b).toNat = (2 * v.toNat + b.toNat) % 2 ^ 32 := by
  have hdisjoint : (v <<< 1) &&& (BitVec.ofBool b).setWidth 32 = 0 := by
    ext i hi
    cases i <;> simp
  rw [shiftIn, ← BitVec.add_eq_or_of_and_eq_zero _ _ hdisjoint, BitVec.toNat_add, BitVec.toNat_shiftLeft]
  cases b <;> simp [Nat.shiftLeft_eq, Nat.mul_comm]

/-- The leading one of a value stands at bit `j`, as `j` pairs leave it of the first value 1. -/
def LeadingAt (v : Word) (j : Nat) : Prop := 2 ^ j ≤ v.toNat ∧ v.toNat < 2 ^ (j + 1)

/-- A pair moves it up by one. -/
theorem LeadingAt.shiftIn {v : Word} {j : Nat} (h : LeadingAt v j) (b : Bool) (hj : j + 1 < 32) :
    LeadingAt (shiftIn v b) (j + 1) := by
  obtain ⟨hlow, hhigh⟩ := h
  have hmax : 2 ^ (j + 1) ≤ 2 ^ 31 := Nat.pow_le_pow_right (by decide) (by omega)
  have hb := b.toNat_lt
  rw [LeadingAt, shiftIn_toNat, Nat.mod_eq_of_lt (by omega), pow_succ 2 (j + 1), pow_succ 2 j] at *
  omega

/-- The pairs that carry the bits `bs`. -/
def pairBits (cont : Bool) (bs : List Bool) : List Bool := bs.flatMap fun b => [cont, b]

section Readers
variable {σ φ : Type} {P : Port σ φ}

/-- One round over a pair that the width still admits. -/
theorem igLoop_of_pair {width rounds : Nat} {cont inverted b : Bool} {sentinel value : Word} {s r q : σ}
    (hr : P.bit s = .ok cont r) (hq : P.bit r = .ok b q) (hfits : value.toNat < 2 ^ (width - 1)) :
    igLoop P width cont inverted sentinel (rounds + 1) value s =
      if sentinel ≠ 0 ∧ sentinel ≤ shiftIn value (b ^^ inverted) then .ok none q
      else igLoop P width cont inverted sentinel rounds (shiftIn value (b ^^ inverted)) q := by
  rw [igLoop, hr, Res.bind_of_ok, if_neg (by simp), if_neg (Nat.not_le.mpr hfits), hq, Res.bind_of_ok]

/-- The continuation tag of a pair that it does not. -/
theorem igLoop_of_full {width rounds : Nat} {cont inverted : Bool} {sentinel value : Word} {s t : σ}
    (ht : P.bit s = .ok cont t) (hfull : 2 ^ (width - 1) ≤ value.toNat) :
    igLoop P width cont inverted sentinel (rounds + 1) value s = .raised .malformedToken t := by
  rw [igLoop, ht, Res.bind_of_ok, if_neg (by simp), if_pos hfull]

/-- Pairs that neither reach the sentinel nor fill the width take the loop of `IG_READ` on by as many rounds. -/
theorem igLoop_of_reads_pairs {width rounds j : Nat} {cont inverted : Bool} {sentinel value : Word} {bs : List Bool} {s t : σ}
    (hv : LeadingAt value j) (hwidth : j + bs.length < width) (h32 : width ≤ 32)
    (hs : sentinel = 0 ∨ 2 ^ (j + bs.length + 1) ≤ sentinel.toNat) (h : P.Reads (bitElems (pairBits cont bs)) s t) :
    ∃ value', LeadingAt value' (j + bs.length) ∧
      igLoop P width cont inverted sentinel (rounds + bs.length) value s =
        igLoop P width cont inverted sentinel rounds value' t := by
  induction bs generalizing j value s with
  | nil =>
    cases h
    exact ⟨value, hv, rfl⟩
  | cons b bs ih =>
    rw [List.length_cons, ← Nat.add_assoc] at *
    obtain ⟨r, hr, q, hq, hrest⟩ := h
    have hbits := hv.shiftIn (b ^^ inverted) (by omega)
    have hfits : value.toNat < 2 ^ (width - 1) := lt_of_lt_of_le hv.2 (Nat.pow_le_pow_right (by decide) (by omega))
    have hbelow : ¬ (sentinel ≠ 0 ∧ sentinel ≤ shiftIn value (b ^^ inverted)) := by
      rintro ⟨hne, hle⟩
      have hge := hs.resolve_left hne
      have : 2 ^ (j + 1 + 1) ≤ 2 ^ (j + bs.length + 1 + 1) := Nat.pow_le_pow_right (by decide) (by omega)
      have := hbits.2
      bv_omega
    obtain ⟨value', hvalue', heq⟩ := ih hbits (by omega) (by rwa [Nat.add_right_comm j 1]) hrest
    refine ⟨value', by rwa [Nat.add_right_comm j 1] at hvalue', ?_⟩
    exact (igLoop_of_pair hr hq hfits).trans ((if_neg hbelow).trans heq)

theorem leadingAt_one : LeadingAt 1 0 := ⟨by decide, by decide⟩

/-- Pairs of which the last reaches a sentinel that is a power of two. -/
theorem igReadCode_spells_pairs {cfg : Config} {sentinel : Word} {inverted backwards : Bool} {bs : List Bool} (h1 : 1 ≤ bs.length)
    (hwidth : bs.length < cfg.valueBits) (hs : sentinel.toNat = 2 ^ bs.length) :
    P.Spells (igReadCode P cfg sentinel inverted backwards) (bitElems (pairBits (igTag cfg backwards) bs)) none := by
  intro s u h
  have h32 : cfg.valueBits ≤ 32 := Nat.min_le_right _ _
  obtain rfl | ⟨init, b, rfl⟩ := List.eq_nil_or_concat bs
  · cases h1
  rw [List.length_concat] at hwidth hs
  rw [List.concat_eq_append, pairBits, List.flatMap_append, bitElems_append] at h
  obtain ⟨t, hinit, r, hr, q, hq, rfl⟩ := Port.reads_append.mp h
  obtain ⟨value, hvalue, hloop⟩ := igLoop_of_reads_pairs (rounds := 31 - init.length + 1) (inverted := inverted) leadingAt_one
    (by omega) h32 (.inr (by rw [Nat.zero_add]; exact hs.ge)) hinit
  rw [Nat.zero_add] at hvalue
  rw [show 31 - init.length + 1 + init.length = 32 by omega] at hloop
  have hfits : value.toNat < 2 ^ (cfg.valueBits - 1) := lt_of_lt_of_le hvalue.2 (Nat.pow_le_pow_right (by decide) (by omega))
  have hreached : sentinel ≠ 0 ∧ sentinel ≤ shiftIn value (b ^^ inverted) := by
    have hlow := (hvalue.shiftIn (b ^^ inverted) (by omega)).1
    have hpos := Nat.two_pow_pos (init.length + 1)
    rw [← hs] at hlow hpos
    exact ⟨by bv_omega, hlow⟩
  rw [igReadCode, hloop, igLoop_of_pair hr hq hfits, if_pos hreached]

/-- Without a sentinel, the tag of the pair for which the width has no bit left. -/
theorem igReadCode_raised_of_reads {cfg : Config} {inverted backwards : Bool} {bs : List Bool} {s u : σ}
    (hwidth : bs.length + 1 = cfg.valueBits)
    (h : P.Reads (bitElems (pairBits (igTag cfg backwards) bs ++ [igTag cfg backwards])) s u) :
    igReadCode P cfg 0 inverted backwards s = .raised .malformedToken u := by
  have h32 : cfg.valueBits ≤ 32 := Nat.min_le_right _ _
  rw [bitElems_append] at h
  obtain ⟨t, hpairs, r, hr, rfl⟩ := Port.reads_append.mp h
  obtain ⟨value, hvalue, hloop⟩ := igLoop_of_reads_pairs (rounds := 31 - bs.length + 1) (inverted := inverted) leadingAt_one
    (by omega) h32 (.inl rfl) hpairs
  rw [Nat.zero_add] at hvalue
  rw [show 31 - bs.length + 1 + bs.length = 32 by omega] at hloop
  rw [igReadCode, hloop, igLoop_of_full hr]
  rw [← hwidth]
  exact hvalue.1

end Readers

/-! ## The transactions -/

theorem exec_egWrite (v : Word) (s : State) : exec (.egWrite v) s =
    operation (quiet fun s => if v = 0 then .raised .malformedToken s else writeAll (egCode v) s) s := rfl
theorem exec_igWrite (v flags : Word) (s : State) : exec (.igWrite v flags) s =
    operation (quiet fun s => if v = 0 then .raised .malformedToken s
      else writeAll (igCode s.cfg (flags.getLsbD 0) (flags.getLsbD 1) v) s) s := rfl
theorem exec_bbgWrite (v : Word) (s : State) : exec (.bbgWrite v) s =
    operation (quiet fun s => if 65535 ≤ v then .raised .malformedToken s else writeAll (bbgCode v) s) s := rfl
theorem exec_egRead (limit : Word) (s : State) : exec (.egRead limit) s =
    operation (fun s => (egReadCode statePort s.cfg limit.toNat s).map gammaResult) s := rfl
theorem exec_igRead (sentinel flags : Word) (s : State) : exec (.igRead sentinel flags) s =
    operation (fun s => (igReadCode statePort s.cfg sentinel (flags.getLsbD 0) (flags.getLsbD 1) s).map gammaResult) s := rfl
theorem exec_bbgRead (s : State) : exec .bbgRead s =
    operation (fun s => (bbgReadCode statePort s.cfg s).map gammaResult) s := rfl
theorem exec_gammaBits (v : Word) (s : State) : exec (.gammaBits v) s =
    operation (fun s => if v = 0 then .raised .malformedToken s
      else .ok [BitVec.ofNat 32 (gammaBitsOf v.toNat)] s) s := rfl

/-! ## The writers -/

/-- A writer that writes a codeword for which there is room: the state that a `WRITE_BIT` for each of its bits leaves. -/
theorem quietOperation_writes {body : State → Res State Fault Unit} {s : State} {bits : List Bool}
    (hw : s.writesBits bits.length) (hbody : body s = writeAll bits s) :
    ∃ t, after (writeBits bits) s = some t ∧ operation (quiet body) s = .next (t.answered []) := by
  obtain ⟨t, u, ht, hu, he⟩ := writeAll_and_after_of_writesBits hw
  exact ⟨u, hu, by rw [he]; exact quietOperation_ok (State.writesBits_room hw).1 (hbody.trans ht)⟩

/-- Settles O21: each writer writes its codeword, and a value without one is refused before the first bit. -/
theorem gammaWriters : Obligations.GammaWriters := by
  refine ⟨fun s v hv hw => ?eg, fun s v flags hv hw => ?ig, fun s v hv hw => ?bbg, fun s v flags hf => ⟨?_, ?_, fun hv => ?_⟩⟩
  case eg =>
    exact quietOperation_writes (by rwa [length_codeEg]) (by rw [if_neg hv, egCode_eq_codeEg])
  case ig =>
    exact quietOperation_writes (by rwa [length_codeIg]) (by rw [if_neg hv, igCode_eq_codeIg])
  case bbg =>
    have hdomain : ¬ 65535 ≤ v := by bv_omega
    exact quietOperation_writes (by rwa [length_codeBbg]) (by rw [if_neg hdomain, bbgCode_eq_codeBbg hv])
  · exact quietOperation_raised hf (if_pos rfl)
  · exact quietOperation_raised hf (if_pos rfl)
  · exact quietOperation_raised hf (if_pos hv)

/-! ## The readers -/

/-- A value of the stream fits the value registers if it is a number of `VAL_BITS` bits. -/
theorem lt_valueBits_iff (cfg : Config) (v : Word) : v.toNat < 2 ^ cfg.valueBits ↔ v.toNat < 2 ^ cfg.valBits := by
  have h32 : v.toNat < 2 ^ 32 := v.isLt
  rcases Nat.le_total cfg.valBits 32 with h | h
  · rw [Config.valueBits, Nat.min_eq_left h]
  · rw [Config.valueBits, Nat.min_eq_right h]
    exact iff_of_true h32 (lt_of_lt_of_le h32 (Nat.pow_le_pow_right (by decide) h))

/-- What is left once a codeword has been read: the value is answered if it fits, and raises if not. -/
theorem finish_fitting (cfg : Config) (v : Word) (t : State) :
    (v.toNat < 2 ^ cfg.valBits → finish (((fitting cfg v t).map some).map gammaResult) = .next (t.answered [v, 0])) ∧
    (2 ^ cfg.valBits ≤ v.toNat →
      finish (((fitting cfg v t).map some).map gammaResult) = finish (.raised .malformedToken t)) := by
  constructor
  · intro hv
    rw [fitting_ok t ((lt_valueBits_iff _ _).mpr hv)]
    rfl
  · intro hv
    rw [fitting_raised t (Nat.not_lt.mp (mt (lt_valueBits_iff _ _).mp (Nat.not_lt.mpr hv)))]
    rfl

theorem toNat_limit (limit : Word) :
    (if limit.toNat = 0 then 32 else limit.toNat) = if limit = 0 then 32 else limit.toNat := by
  simp [← BitVec.toNat_inj]

/-- Settles O22. -/
theorem egReadLaw : Obligations.EgReadLaw := by
  intro s t limit v hf
  rw [exec_egRead, operation_runs hf]
  refine ⟨fun hlimit hv hbound h => ?_, fun hlimit h => ?_, fun hlimit => ?_⟩
  · rw [← egCode_eq_codeEg] at h
    rw [← toNat_limit] at hbound
    rw [egReadCode_of_reads (by bv_omega) (by bv_omega) hbound (statePort_reads_of_reads h)]
    exact finish_fitting s.cfg v t
  · rw [← toNat_limit] at h
    rw [egReadCode_spells_limit (by bv_omega) s t (statePort_reads_of_reads h)]
    rfl
  · rw [egReadCode_refused _ _ s (by bv_omega)]
    rfl

/-- Settles O23. -/
theorem igReadLaw : Obligations.IgReadLaw := by
  intro s t sentinel flags v hf
  rw [exec_igRead, operation_runs hf]
  refine ⟨fun hv hs hfit h => ?_, fun bs h1 hwidth hs h => ?_, fun bs hwidth hs h => ?_⟩
  · rw [← igCode_eq_codeIg] at h
    rw [igReadCode_spells (by bv_omega) ((lt_valueBits_iff _ _).mpr hfit) hs s t (statePort_reads_of_reads h)]
    rfl
  · rw [igReadCode_spells_pairs h1 hwidth hs s t (statePort_reads_of_reads h)]
    rfl
  · rw [hs, igReadCode_raised_of_reads hwidth (statePort_reads_of_reads h)]
    rfl

/-- Settles O24. -/
theorem bbgReadLaw : Obligations.BbgReadLaw := by
  intro s t v hf
  rw [exec_bbgRead, operation_runs hf]
  refine ⟨fun hv h => ?_, fun h => ?_⟩
  · rw [← bbgCode_eq_codeBbg hv] at h
    rw [bbgReadCode_of_reads (by bv_omega) (statePort_reads_of_reads h)]
    exact finish_fitting s.cfg v t
  · rw [bbgReadCode_spells_none s t (statePort_reads_of_reads h)]
    rfl

/-- Settles O25. -/
theorem gammaBitsValue : Obligations.GammaBitsValue := by
  intro s v hf
  rw [exec_gammaBits, operation_runs hf]
  constructor
  · intro hv
    rw [if_neg hv]
    rfl
  · intro hv
    rw [if_pos hv]

end Sys2Proof.Machine
end

section
/-! PROOFS. The transactions of the token decoder (43_decoder_common.md R210, R211, R216 to R218): how a `TD_STEP` is the token it fetches, and the steps
that fetch nothing. -/

namespace Sys2Proof

-- No concurrency, as in the tests.
set_option Elab.async false

/-- The elements that are no whole step by themselves (R211; notes/assumptions/15.md). -/
def Element.isPart : Element → Bool
  | .pltQ | .dan3Subset => true
  | _ => false

/-- The tokens of a ZX0 job (48_zx0.md R350). -/
def Element.ofZx0 : Element → Bool
  | .zx0Lits | .zx0Rep | .zx0New => true
  | _ => false

namespace Machine

/-! ## Fetching -/

/-- What is fetched is an instruction of the element asked for, and fetching takes no fault. -/
theorem fetchElement_ok {e : Element} {s t : State} {i : Instr} (hf : s.fault = false) (h : fetchElement e s = .ok i t) :
    elementOf i = some e ∧ t.fault = false := by
  have hends := fetchElement_ends (e := e) hf
  rw [h] at hends
  exact hends

theorem runElement_of_fetch {e : Element} {s t : State} {i : Instr} (h : fetchElement e s = .ok i t) :
    runElement e s = runToken i t := by
  rw [runElement, h, Res.bind_of_ok]

theorem runElement_of_raised {e : Element} {s t : State} {k : ErrKind} (h : fetchElement e s = .raised k t) :
    runElement e s = .raised k t := by
  rw [runElement, h, Res.bind_of_raised]

/-! ## Transactions -/

theorem exec_tdStep {s : State} (hf : s.fault = false) : exec .tdStep s = finish (quiet tdStep s) := operation_runs hf

theorem exec_tdRun {s : State} (hf : s.fault = false) : exec .tdRun s = finish (quiet tdRun s) := operation_runs hf

/-- A token that is a whole step is counted when it is issued by itself. -/
theorem exec_eq_tokenStep {i : Instr} {e : Element} (hi : elementOf i = some e) (he : e.isPart = false) (s : State) :
    exec i s = tokenStep (runToken i) s := by
  cases i with
  | pltQ | dan3Subset => cases hi; cases he
  | mdkRaw | mdkRle | mdkEnd | lzfLrun | lzfShort | lzfLong | lzfEnd | pltFirst | pltLit | pltMatch | pltEnd
  | dan1First | dan1Lit | dan1Match | dan1Raw | dan1End | dan3First | dan3Lit | dan3Match | dan3Raw | dan3End
  | zx7First | zx7Lit | zx7Match | zx7End | zx0Lits | zx0Rep | zx0Match | zx0End
  | bbLen | bbLit | bbMatch | bbEnd => rfl
  | _ => cases hi

/-- A `TD_STEP` that comes down to one element is the transaction of the token fetched. -/
theorem exec_tdStep_of_fetch {s u t : State} {e : Element} {i : Instr} (hf : s.fault = false) (hu : u.fault = false)
    (he : e.isPart = false) (hstep : tdStep s = counted (runElement e u)) (hfetch : fetchElement e u = .ok i t) :
    exec .tdStep s = exec i t := by
  obtain ⟨hi, ht⟩ := fetchElement_ok hu hfetch
  rw [exec_tdStep hf, exec_eq_tokenStep hi he, tokenStep, operation_runs ht, quiet, quiet, hstep,
    runElement_of_fetch hfetch]

/-! ## `TD_START` -/

theorem codecOf_eq_zx0 (c : BitVec 3) : codecOf c = .zx0 ↔ c = 6 := by
  revert c
  decide

/-- The mirror flag of R210: ZX0 with `BACKWARDS`. -/
theorem State.mirrored_iff (s : State) :
    (decide (s.jobCodec = .zx0) && s.optBackwards) = (decide (s.codec = 6) && s.opt.getLsbD 1) := by
  rw [State.jobCodec, State.optBackwards, decide_eq_decide.mpr (codecOf_eq_zx0 s.codec)]

/-- Settles O35: the registers of `TD_START` over `CLEAR_FAULT`, then the check of `SRC_LEN`. -/
theorem decodeStart : Obligations.DecodeStart := by
  intro s t ht
  have hstart : s.clearFault.tdStarted = t := by
    rw [ht, State.tdStarted, State.mirrored_iff]
    simp [State.brStart]
  have hcfg : t.cfg = s.cfg := by simp [ht]
  have hlen : t.srcLen = s.srcLen := by simp [ht]
  have hexec : exec .tdStart s = finish (if s.cfg.srcCap < s.srcLen then .raised .inputTooLarge t else .ok [] t) := by
    change finish (tdStart s) = _
    rw [tdStart, hstart, hcfg, hlen]
  refine ⟨fun h => ?_, fun h => ?_⟩
  · rw [hexec, if_neg (BitVec.not_lt.mpr h), finish_ok]
  · rw [hexec, if_pos h]

/-! ## `TD_STEP` and `TD_RUN` where nothing is read -/

theorem tdLoop_done {n : Nat} {s : State} (h : s.dState = .done) : tdLoop (n + 1) s = .ok () s := by
  simp [tdLoop, h]

theorem emptyStreamLegal_of_codec {c : BitVec 3} (h : c ∉ [(0 : BitVec 3), 7]) : emptyStreamLegal (codecOf c) = true := by
  revert c
  decide

/-- R216: the step over an empty stream. -/
theorem tdStep_emptyStream {s : State} (hd : s.dState = .header) (hlen : s.srcLen = 0) (hc : s.codec ∉ [(0 : BitVec 3), 7]) :
    tdStep s = .ok () { s with dState := .done } := by
  simp [tdStep, hd, hlen, State.jobCodec, emptyStreamLegal_of_codec hc, setDState]

/-- Settles O36, by `d_state`. -/
theorem stepWithoutReading : Obligations.StepWithoutReading := by
  intro s hf
  rw [exec_tdStep hf, exec_tdRun hf]
  refine ⟨fun hd => ?_, fun hd => ?_, fun hd hlen hc => ?_⟩
  · have hstep : tdStep s = .raised .malformedToken s := by simp [tdStep, hd]
    have hrun : tdRun s = .raised .malformedToken s := by simp [tdRun, hd]
    exact ⟨by rw [quiet_of_raised hstep], by rw [quiet_of_raised hrun]⟩
  · have hstep : tdStep s = .ok () s := by simp [tdStep, hd]
    have hrun : tdRun s = .ok () s := by simp [tdRun, hd, State.stepBound, tdLoop_done]
    exact ⟨by rw [quiet_of_ok hstep, finish_ok], by rw [quiet_of_ok hrun, finish_ok]⟩
  · have hstep := tdStep_emptyStream hd hlen hc
    have hrun : tdRun s = .ok () { s with dState := .done } := by
      simp [tdRun, hd, State.stepBound, tdLoop, hstep]
    exact ⟨by rw [quiet_of_ok hstep, finish_ok], by rw [quiet_of_ok hrun, finish_ok]⟩

/-! ## The END tokens -/

/-- Settles O48: each token but `BB.END` is its state alone. -/
theorem endTokens : Obligations.EndTokens := by
  intro s hf
  refine ⟨fun i hi => ?_, fun hlen => ?_, fun hlen => ?_⟩
  · simp only [List.mem_cons, List.not_mem_nil, or_false] at hi
    obtain rfl | rfl | rfl | rfl | rfl | rfl := hi <;> exact tokenStep_ok hf rfl
  · exact tokenStep_ok hf (by simp [bbEnd, hlen, thenState])
  · exact tokenStep_raised hf (by simp [bbEnd, hlen])

/-! ## A step is its token -/

/-- The decoder's states in which a token is fetched. -/
theorem tdStep_of_tokenState {s : State} (h : s.dState ∈ [DState.token, .zx0Lit, .zx0Last, .zx0New]) :
    tdStep s = counted (tokenBody s) := by
  cases hd : s.dState <;> simp [hd, tdStep] at h ⊢

theorem State.tokenElement_isPart {s : State} {e : Element} (h : s.tokenElement = .ok e) : e.isPart = false := by
  unfold State.tokenElement at h
  split at h
  case h_8 => split at h <;> cases h <;> rfl
  all_goals cases h; rfl

/-- Settles O37. -/
theorem stepRunsTheToken : Obligations.StepRunsTheToken := by
  intro s t e hf hd he
  have hstep : tdStep s = counted (runElement e s) := by rw [tdStep_of_tokenState hd, tokenBody_eq_runElement he]
  refine ⟨fun i hi => exec_tdStep_of_fetch hf hf (State.tokenElement_isPart he) hstep hi, fun k hk => ?_⟩
  rw [exec_tdStep hf, quiet_of_raised]
  rw [hstep, runElement_of_raised hk, counted, Res.bind_of_raised]

/-! ## The header step -/

theorem State.jobCodec_of_codec {s : State} {c : BitVec 3} (h : s.codec = c) : s.jobCodec = codecOf c := by
  rw [State.jobCodec, h]

theorem tdStep_header {s : State} (hd : s.dState = .header) (h : s.codec = 0 ∨ s.codec = 7 ∨ s.srcLen ≠ 0) :
    tdStep s = counted (headerBody s) := by
  have hlegal : ¬ (s.srcLen = 0 ∧ emptyStreamLegal s.jobCodec = true) := by
    rintro ⟨hlen, hl⟩
    obtain hc | hc | hc := h
    · rw [State.jobCodec_of_codec hc] at hl; cases hl
    · rw [State.jobCodec_of_codec hc] at hl; cases hl
    · exact hc hlen
  simp only [tdStep, hd, if_neg hlegal]

/-- MDK-RLE and LZF have no header: the first token in the same step. -/
theorem headerBody_noHeader {s : State} (h : s.codec = 0 ∨ s.codec = 1) : headerBody s = tokenBody { s with dState := .token } := by
  obtain hc | hc := h <;> rw [headerBody, State.jobCodec_of_codec hc] <;> rfl

theorem headerBody_zx0 {s : State} (h : s.codec = 6) : headerBody s = tokenBody { s with dState := .zx0Lit } := by
  rw [headerBody, State.jobCodec_of_codec h]; rfl

/-- The headers of one element. -/
theorem headerBody_one {s : State} {e : Element}
    (h : (s.codec, e) ∈ [((3 : BitVec 3), Element.dan1First), (5, .zx7First), (7, .bbLen)]) : headerBody s = runElement e s := by
  simp only [List.mem_cons, Prod.mk.injEq, List.not_mem_nil, or_false] at h
  obtain ⟨hc, rfl⟩ | ⟨hc, rfl⟩ | ⟨hc, rfl⟩ := h <;> rw [headerBody, State.jobCodec_of_codec hc] <;> rfl

/-- Pletter's header under `DSK2ROM` (R272). -/
theorem headerBody_dsk2rom {s : State} (h : s.codec = 2) (hopt : s.opt.getLsbD 3 = true) :
    headerBody s = runElement .pltFirst { s with dQ := 2, dSentinel := s.cfg.fit 131072 } := by
  rw [headerBody, State.jobCodec_of_codec h]
  simp [codecOf, State.optDsk2rom, hopt, State.pltDsk2rom, Params.pletterDsk2romSentinel]

theorem headerBody_pletter {s : State} (h : s.codec = 2) (hopt : s.opt.getLsbD 3 = false) :
    headerBody s = (runElement .pltQ s).bind fun _ s => runElement .pltFirst s := by
  rw [headerBody, State.jobCodec_of_codec h]
  simp only [State.optDsk2rom, hopt]; rfl

theorem headerBody_dan3 {s : State} (h : s.codec = 4) :
    headerBody s = (runElement .dan3Subset { s with dSubset := 0 }).bind fun _ s => runElement .dan3First s := by
  rw [headerBody, State.jobCodec_of_codec h]; rfl

/-- The first part of a header takes no fault when it completes. -/
theorem runToken_part_fault {i : Instr} {e : Element} {s t : State} (hi : elementOf i = some e) (he : e.isPart = true)
    (h : runToken i s = .ok () t) : t.fault = s.fault := by
  cases i with
  | pltQ u =>
    change pltQ u s = .ok () t at h
    unfold pltQ at h
    split at h <;> cases h
    rfl
  | dan3Subset n => cases h; rfl
  | _ => cases hi <;> cases he

/-- A header of two elements is the second of them, on the state the first has left. -/
theorem exec_tdStep_of_parts {s u t v w : State} {e e' : Element} {i j : Instr} (hf : s.fault = false) (hu : u.fault = false)
    (he : e.isPart = true) (he' : e'.isPart = false)
    (hstep : tdStep s = counted ((runElement e u).bind fun _ s => runElement e' s))
    (hi : fetchElement e u = .ok i t) (hrun : runToken i t = .ok () v) (hj : fetchElement e' v = .ok j w) :
    exec .tdStep s = exec j w := by
  obtain ⟨hfetched, ht⟩ := fetchElement_ok hu hi
  have hv : v.fault = false := (runToken_part_fault hfetched he hrun).trans ht
  rw [runElement_of_fetch hi, hrun, Res.bind_of_ok] at hstep
  exact exec_tdStep_of_fetch hf hv he' hstep hj

/-- Settles O38, codec by codec. -/
theorem stepRunsTheHeader : Obligations.StepRunsTheHeader := by
  intro s hf hd
  refine ⟨fun h => ?_, fun hc hlen => ?_, fun e i t hc hlen hi => ?_, fun i t hc hlen hopt hi => ?_,
    fun i j t u w hc hlen hopt hi hrun hj => ?_, fun i j t u w hc hlen hi hrun hj => ?_⟩
  · rw [exec_tdStep hf, exec_tdStep (s := { s with dState := .token }) hf, quiet, quiet, tdStep_header hd (by tauto),
      headerBody_noHeader (by tauto), tdStep_of_tokenState (by simp)]
  · rw [exec_tdStep hf, exec_tdStep (s := { s with dState := .zx0Lit }) hf, quiet, quiet, tdStep_header hd (by tauto),
      headerBody_zx0 hc, tdStep_of_tokenState (by simp)]
  · have he : e.isPart = false := by
      simp only [List.mem_cons, Prod.mk.injEq, List.not_mem_nil, or_false] at hc
      obtain ⟨_, rfl⟩ | ⟨_, rfl⟩ | ⟨_, rfl⟩ := hc <;> rfl
    exact exec_tdStep_of_fetch hf hf he (by rw [tdStep_header hd (by tauto), headerBody_one hc]) hi
  · exact exec_tdStep_of_fetch (u := { s with dQ := 2, dSentinel := s.cfg.fit 131072 }) hf hf rfl
      (by rw [tdStep_header hd (by tauto), headerBody_dsk2rom hc hopt]) hi
  · exact exec_tdStep_of_parts hf hf rfl rfl (by rw [tdStep_header hd (by tauto), headerBody_pletter hc hopt]) hi hrun hj
  · exact exec_tdStep_of_parts (u := { s with dSubset := 0 }) hf hf rfl rfl
      (by rw [tdStep_header hd (by tauto), headerBody_dan3 hc]) hi hrun hj

/-! ## A step over a literal -/

/-- The reader meets a bit and then a byte. -/
theorem State.reads_bit_byte {s t : State} {b : Bool} {v : Byte} (h : s.reads [.bit b, .byte v] t) :
    ∃ u, readBit s = .ok b u ∧ readByte u = .ok v t := by
  obtain ⟨u, hb, _, hv, rfl⟩ := statePort_reads_of_reads h
  exact ⟨u, hb, hv⟩

/-- Reading a bit and a byte leaves `OUT` and the parameters alone. -/
theorem readBit_readByte_frame {s t u : State} {b : Bool} {v : Byte} (hb : readBit s = .ok b u) (hv : readByte u = .ok v t) :
    t.cfg = s.cfg ∧ t.outLen = s.outLen := by
  obtain ⟨_, _, rfl⟩ := readByte_ok hv
  obtain ⟨_, _, rfl⟩ | ⟨_, _, _, rfl⟩ | ⟨_, _, _, _, rfl⟩ := readBit_ok hb <;> exact ⟨rfl, rfl⟩

/-- The tokens of the codecs whose literal is a tag bit and a byte. -/
theorem State.tokenElement_of_codec {s : State} {e : Element}
    (h : (s.codec, e) ∈ [((2 : BitVec 3), Element.pltToken), (3, .dan1Token), (4, .dan3Token), (5, .zx7Token), (7, .bbToken)]) :
    s.tokenElement = .ok e := by
  simp only [List.mem_cons, Prod.mk.injEq, List.not_mem_nil, or_false] at h
  obtain ⟨hc, rfl⟩ | ⟨hc, rfl⟩ | ⟨hc, rfl⟩ | ⟨hc, rfl⟩ | ⟨hc, rfl⟩ := h <;>
    rw [State.tokenElement, State.jobCodec_of_codec hc] <;> rfl

/-- What these codecs fetch from the tag bit of a literal and a byte. -/
theorem fetchElement_literal {s t : State} {tag : Bool} {v : Byte}
    (htag : s.codec ∈ [(2 : BitVec 3), 5, 7] ∧ tag = false ∨ s.codec ∈ [(3 : BitVec 3), 4] ∧ tag = true)
    (hreads : s.reads [.bit tag, .byte v] t) :
    ∃ e i, s.tokenElement = .ok e ∧ fetchElement e s = .ok i t ∧ runToken i t = thenState (putByte v t) .token := by
  obtain ⟨u, hu, hv⟩ := State.reads_bit_byte hreads
  have hbit : statePort.bit s = .ok tag u := hu
  have hbyte : statePort.byte u = .ok v t := hv
  simp only [List.mem_cons, List.not_mem_nil, or_false] at htag
  obtain ⟨hc | hc | hc, rfl⟩ | ⟨hc | hc, rfl⟩ := htag
  · exact ⟨.pltToken, .pltLit v, State.tokenElement_of_codec (by simp [hc]),
      by simp [fetchElement, decodeElement, decodePlt, hbit, hbyte], rfl⟩
  · exact ⟨.zx7Token, .zx7Lit v, State.tokenElement_of_codec (by simp [hc]),
      by simp [fetchElement, decodeElement, decodeZx7, hbit, hbyte], rfl⟩
  · exact ⟨.bbToken, .bbLit v, State.tokenElement_of_codec (by simp [hc]),
      by simp [fetchElement, decodeElement, decodeBb, hbit, hbyte], rfl⟩
  · exact ⟨.dan1Token, .dan1Lit v, State.tokenElement_of_codec (by simp [hc]),
      by simp [fetchElement, decodeElement, decodeDan1, hbit, hbyte], rfl⟩
  · exact ⟨.dan3Token, .dan3Lit v, State.tokenElement_of_codec (by simp [hc]),
      by simp [fetchElement, decodeElement, decodeDan3, hbit, hbyte], rfl⟩

theorem State.roomFor_one {s : State} (h : s.roomFor 1) : s.outLen < s.cfg.outCap := by
  simp only [State.roomFor] at h
  bv_omega

/-- Settles O39: the literal fetched is a token by itself (O37), and its rule appends the byte. -/
theorem stepOverALiteral : Obligations.StepOverALiteral := by
  intro s t tag v hf hd htag hreads hroom
  obtain ⟨e, i, he, hi, hrun⟩ := fetchElement_literal htag hreads
  have hstep : exec .tdStep s = exec i t := (stepRunsTheToken s t e hf (by simp [hd]) he).1 i hi
  obtain ⟨b, hb, hv⟩ := State.reads_bit_byte hreads
  obtain ⟨hcfg, hlen⟩ := readBit_readByte_frame hb hv
  have hcap := State.roomFor_one hroom
  rw [← hcfg, ← hlen] at hcap
  obtain ⟨u, hu, happ⟩ := putByte_appends_of_lt v hcap
  obtain ⟨hfetched, ht⟩ := fetchElement_ok hf hi
  refine ⟨u, happ, ?_⟩
  rw [hstep, exec_eq_tokenStep hfetched (State.tokenElement_isPart he)]
  exact tokenStep_ok ht (by rw [hrun, hu])

end Machine

end Sys2Proof
end

section
/-! PROOFS. The two rules that read `OUT` back: `COPY` (43_decoder_common.md R215), and the reversal at the end of a mirrored ZX0 job (R218, 48_zx0.md R360). -/

namespace Sys2Proof.Machine

-- No concurrency, as in the tests.
set_option Elab.async false

/-! ## `COPY` -/

/-- A byte just appended is read back. -/
theorem State.appends_outByte_new {s t : State} {n k : Nat} {v : Nat → Byte} (h : s.appends t n v) (hk : k < n) :
    t.outByte (s.outLen.toNat + k) = v k := by
  obtain ⟨_, hlen, hnew, _⟩ := h
  simp [State.outByte, hlen, hk, hnew k hk]

theorem State.appends_outLen {s t : State} {n : Nat} {v : Nat → Byte} (h : s.appends t n v) :
    t.outLen.toNat = s.outLen.toNat + n := h.2.1

theorem State.appends_cfg {s t : State} {n : Nat} {v : Nat → Byte} (h : s.appends t n v) : t.cfg = s.cfg := by
  rw [h.1]

/-- The byte that stands `k` places on in the pattern of a copy: the last `offset` bytes of `OUT`, again and again. -/
def State.periodic (s : State) (offset k : Nat) : Byte := s.outByte (s.outLen.toNat - offset + k % offset)

/-- Appending the pattern's first byte moves the pattern on by one place. -/
theorem State.periodic_succ {s t : State} {offset : Nat} (hpos : 1 ≤ offset) (hle : offset ≤ s.outLen.toNat)
    (h : s.appends t 1 fun _ => s.periodic offset 0) (k : Nat) : t.periodic offset k = s.periodic offset (k + 1) := by
  have hlen := State.appends_outLen h
  have hk : k % offset < offset := Nat.mod_lt k hpos
  simp only [State.periodic, hlen]
  by_cases hwrap : k % offset + 1 = offset
  · have hmod : (k + 1) % offset = 0 := by rw [← Nat.mod_add_mod, hwrap, Nat.mod_self]
    rw [hmod, show s.outLen.toNat + 1 - offset + k % offset = s.outLen.toNat + 0 by omega, State.appends_outByte_new h (by omega)]
    simp [State.periodic]
  · have hmod : (k + 1) % offset = k % offset + 1 := by rw [← Nat.mod_add_mod, Nat.mod_eq_of_lt (by omega)]
    rw [hmod, show s.outLen.toNat + 1 - offset + k % offset = s.outLen.toNat - offset + (k % offset + 1) by omega]
    exact State.appends_outByte h (by omega)

/-- One byte of the pattern and then `n` more of it. -/
theorem State.appends_periodic_succ {s t u : State} {offset n : Nat} (hpos : 1 ≤ offset) (hle : offset ≤ s.outLen.toNat)
    (h : s.appends t 1 fun _ => s.periodic offset 0) (hrest : t.appends u n (t.periodic offset)) :
    s.appends u (n + 1) (s.periodic offset) := by
  rw [Nat.add_comm]
  refine State.appends_congr (State.appends_append h hrest) fun k _ => ?_
  cases k with
  | zero => simp
  | succ k => simp [State.periodic_succ hpos hle h]

/-- A step of the loop of `COPY` with room for the byte. -/
theorem copyLoop_succ {s : State} {offset n : Nat} (hroom : s.outLen < s.cfg.outCap) :
    ∃ t, s.appends t 1 (fun _ => s.periodic offset 0) ∧ copyLoop offset (n + 1) s = copyLoop offset n t := by
  obtain ⟨t, ht, happ⟩ := putByte_appends_of_lt (s.outByte (s.outLen.toNat - offset)) hroom
  exact ⟨t, by simpa [State.periodic] using happ, by rw [copyLoop, ht, Res.bind_of_ok]⟩

/-- The loop with room for all bytes. -/
theorem copyLoop_room {s : State} {offset n : Nat} (hpos : 1 ≤ offset) (hle : offset ≤ s.outLen.toNat) (hroom : s.roomFor n) :
    ∃ t, copyLoop offset n s = .ok () t ∧ s.appends t n (s.periodic offset) := by
  induction n generalizing s with
  | zero => exact ⟨s, rfl, State.appends_zero s _⟩
  | succ n ih =>
    simp only [State.roomFor] at hroom
    obtain ⟨t, ht, hloop⟩ := copyLoop_succ (offset := offset) (n := n) (s := s) (by bv_omega)
    have hlen := State.appends_outLen ht
    have hcfg := State.appends_cfg ht
    obtain ⟨u, hu, hrest⟩ := ih (s := t) (by omega) (by simp only [State.roomFor, hcfg]; omega)
    exact ⟨u, by rw [hloop, hu], State.appends_periodic_succ hpos hle ht hrest⟩

/-- The loop without: it fills `OUT` and then raises. -/
theorem copyLoop_overflow {s : State} {offset n : Nat} (hpos : 1 ≤ offset) (hle : offset ≤ s.outLen.toNat)
    (hcap : s.outLen ≤ s.cfg.outCap) (hroom : ¬ s.roomFor n) :
    ∃ t, copyLoop offset n s = .raised .outputOverflow t ∧
      s.appends t (s.cfg.outCap.toNat - s.outLen.toNat) (s.periodic offset) := by
  induction n generalizing s with
  | zero => exact absurd hcap hroom
  | succ n ih =>
    simp only [State.roomFor] at hroom
    by_cases hfull : s.cfg.outCap ≤ s.outLen
    · have hzero : s.cfg.outCap.toNat - s.outLen.toNat = 0 := by bv_omega
      refine ⟨s, by rw [copyLoop, putByte_raised_of_le _ hfull, Res.bind_of_raised], ?_⟩
      rw [hzero]
      exact State.appends_zero s _
    · obtain ⟨t, ht, hloop⟩ := copyLoop_succ (offset := offset) (n := n) (s := s) (by bv_omega)
      have hlen := State.appends_outLen ht
      have hcfg := State.appends_cfg ht
      obtain ⟨u, hu, hrest⟩ := ih (s := t) (by omega) (by rw [hcfg]; bv_omega) (by simp only [State.roomFor, hcfg]; omega)
      refine ⟨u, by rw [hloop, hu], ?_⟩
      have hcount : s.cfg.outCap.toNat - s.outLen.toNat = t.cfg.outCap.toNat - t.outLen.toNat + 1 := by
        rw [hcfg]; bv_omega
      rw [hcount]
      exact State.appends_periodic_succ hpos hle ht hrest

/-- Within `OUT`, `COPY` is its loop. -/
theorem copy_eq_copyLoop {s : State} {offset length : Nat} (hpos : 1 ≤ offset) (hle : offset ≤ s.outLen.toNat) :
    copy offset length s = copyLoop offset length s := by
  rw [copy, if_neg (by omega)]

/-- Settles O43, by induction on the length: each byte appended moves the pattern on by one place. -/
theorem copyEffect : Obligations.CopyEffect := by
  intro s offset length
  refine ⟨fun h => by rw [copy, if_pos h], fun hpos hle hroom => ?_, fun hpos hle hcap hroom => ?_⟩
  · rw [copy_eq_copyLoop hpos hle]
    exact copyLoop_room hpos hle hroom
  · rw [copy_eq_copyLoop hpos hle]
    exact copyLoop_overflow hpos hle hcap hroom

/-! ## Reversing `OUT` -/

/-- The exchanges change `OUT` alone. -/
theorem State.exchanges_frame (n : Nat) (s : State) : ∃ m, State.exchanges n s = { s with out := m } := by
  induction n with
  | zero => exact ⟨_, rfl⟩
  | succ n ih =>
    obtain ⟨m, hm⟩ := ih
    exact ⟨_, by rw [State.exchanges, hm, State.exchange]⟩

theorem State.exchanges_outLen (n : Nat) (s : State) : (State.exchanges n s).outLen = s.outLen := by
  obtain ⟨m, hm⟩ := State.exchanges_frame n s
  rw [hm]

/-- Every byte of `OUT` below `out_len` holds a value (10_state.md R41). -/
def State.outHeld (s : State) : Prop := ∀ a, a < s.outLen.toNat → (Memory.read s.out a).isSome = true

/-- A byte that holds a value is the one read. -/
theorem State.outHeld.read {s : State} (hs : s.outHeld) {a : Nat} (ha : a < s.outLen.toNat) :
    Memory.read s.out a = some (s.outByte a) := by
  obtain ⟨v, hv⟩ := Option.isSome_iff_exists.mp (hs a ha)
  simp [State.outByte, ha, hv]

/-- An exchange gives each of its two places the byte of the other. -/
theorem State.exchange_read {s : State} (hs : s.outHeld) {a : Nat} (ha : a < s.outLen.toNat) (b : Nat) :
    Memory.read (s.exchange a).out b =
      if b = a ∨ b = s.outLen.toNat - 1 - a then Memory.read s.out (s.outLen.toNat - 1 - b) else Memory.read s.out b := by
  simp only [State.exchange, Memory.read_write]
  by_cases hfar : b = s.outLen.toNat - 1 - a
  · rw [if_pos hfar, if_pos (.inr hfar), show s.outLen.toNat - 1 - b = a by omega, hs.read ha]
  · rw [if_neg hfar]
    by_cases hnear : b = a
    · rw [if_pos hnear, if_pos (.inl hnear), hnear, hs.read (by omega)]
    · rw [if_neg hnear, if_neg (by tauto)]

/-- After `n` exchanges the places reached from both ends hold the byte of the place opposite, and the others their own. -/
theorem State.exchanges_read {s : State} (hs : s.outHeld) {n : Nat} (hn : 2 * n ≤ s.outLen.toNat) (b : Nat) :
    Memory.read (State.exchanges n s).out b =
      if b < n ∨ s.outLen.toNat - n ≤ b ∧ b < s.outLen.toNat then Memory.read s.out (s.outLen.toNat - 1 - b)
      else Memory.read s.out b := by
  induction n generalizing b with
  | zero => rw [if_neg (by omega)]; rfl
  | succ n ih =>
    have hread := ih (by omega)
    have hlen := State.exchanges_outLen n s
    have hheld : (State.exchanges n s).outHeld := fun a ha => by
      rw [hlen] at ha
      rw [hread a]
      split
      · exact hs _ (by omega)
      · exact hs a ha
    rw [State.exchanges, State.exchange_read hheld (by rw [hlen]; omega), hlen]
    by_cases hb : b = n ∨ b = s.outLen.toNat - 1 - n
    · rw [if_pos hb, hread, if_neg (by omega), if_pos (by omega)]
    · rw [if_neg hb, hread b]
      have hiff : (b < n ∨ s.outLen.toNat - n ≤ b ∧ b < s.outLen.toNat) ↔
          (b < n + 1 ∨ s.outLen.toNat - (n + 1) ≤ b ∧ b < s.outLen.toNat) := by omega
      simp only [hiff]

/-- The reversal of `OUT`. The byte in the middle of an odd number of bytes stands opposite itself. -/
theorem State.reverseOut_read {s : State} (hs : s.outHeld) {a : Nat} (ha : a < s.outLen.toNat) :
    Memory.read s.reverseOut.out a = Memory.read s.out (s.outLen.toNat - 1 - a) := by
  rw [State.reverseOut, State.exchanges_read hs (by omega)]
  split
  · rfl
  · congr 1; omega

theorem State.reverseOut_read_beyond {s : State} (hs : s.outHeld) {a : Nat} (ha : s.outLen.toNat ≤ a) :
    Memory.read s.reverseOut.out a = Memory.read s.out a := by
  rw [State.reverseOut, State.exchanges_read hs (by omega), if_neg (by omega)]

theorem zx0End_plain {s : State} (h : s.dMirror = false) : zx0End s = thenState (.ok () s) .done := by
  simp [zx0End, h, thenState]

theorem zx0End_mirrored {s : State} (h : s.dMirror = true) : zx0End s = thenState (.ok () s.reverseOut) .done := by
  simp [zx0End, h, thenState]

end Sys2Proof.Machine

namespace Sys2Proof
open Machine

-- No concurrency, as in the tests.
set_option Elab.async false

/-- Settles O53, by induction on the exchanges of the reversal (`exchanges_read`). -/
theorem zx0End : Obligations.Zx0End := by
  intro s hf
  refine ⟨fun hm => tokenStep_ok hf (zx0End_plain hm), fun hm hout => ?_⟩
  have hs : s.outHeld := hout.2
  obtain ⟨m, hrev⟩ : ∃ m, s.reverseOut = { s with out := m } := State.exchanges_frame _ s
  have hmem : m = s.reverseOut.out := by rw [hrev]
  refine ⟨m, tokenStep_ok hf (by rw [← hrev]; exact zx0End_mirrored hm), fun a ha => ?_, fun a ha => ?_⟩
  · rw [hmem]; exact State.reverseOut_read hs ha
  · rw [hmem]; exact State.reverseOut_read_beyond hs ha

end Sys2Proof
end

section
/-! PROOFS. Why `TD_RUN` ends, and ends as the single `TD_STEP`s do (43_decoder_common.md R213, R220). One argument serves both: two runs from states that
differ at most in the response (which the transaction of a `TD_STEP` writes) go in step, neither is stopped by the model, and every step leaves less to read. -/

namespace Sys2Proof

-- No concurrency, as in the tests.
set_option Elab.async false

/-! ## Two runs in step -/

section InStep
variable {σ φ α β : Type} {E R R' : σ → σ → Prop} {s t : σ}

/-- Two runs of an operation go in step: both complete, with the same value and in states related by `R`, or both raise the same kind, in states
related by `E`. Neither meets the model's own stop. -/
def Res.InStep (E R : σ → σ → Prop) : Res σ φ α → Res σ φ α → Prop
  | .ok a s, .ok b t => a = b ∧ R s t
  | .raised k s, .raised l t => k = l ∧ E s t
  | _, _ => False

theorem Res.inStep_ok {a : α} (h : R s t) : (.ok a s : Res σ φ α).InStep E R (.ok a t) := ⟨rfl, h⟩

theorem Res.inStep_raised {k : ErrKind} (h : E s t) : (.raised k s : Res σ φ α).InStep E R (.raised k t) := ⟨rfl, h⟩

/-- The two ways a pair of runs ends. -/
theorem Res.InStep.ends {r r' : Res σ φ α} (h : r.InStep E R r') :
    (∃ a s t, r = .ok a s ∧ r' = .ok a t ∧ R s t) ∨ ∃ k s t, r = .raised k s ∧ r' = .raised k t ∧ E s t := by
  cases r with
  | ok a s =>
    cases r' with
    | ok b t =>
      obtain ⟨rfl, hR⟩ := h
      exact .inl ⟨a, s, t, rfl, rfl, hR⟩
    | raised | stuck => exact h.elim
  | raised k s =>
    cases r' with
    | raised l t =>
      obtain ⟨rfl, hE⟩ := h
      exact .inr ⟨k, s, t, rfl, rfl, hE⟩
    | ok | stuck => exact h.elim
  | stuck f => cases r' <;> exact h.elim

theorem Res.inStep_bind {r r' : Res σ φ α} {f g : α → σ → Res σ φ β} (h : r.InStep E R r')
    (hf : ∀ a s t, R s t → (f a s).InStep E R' (g a t)) : (r.bind f).InStep E R' (r'.bind g) := by
  obtain ⟨a, s, t, rfl, rfl, hR⟩ | ⟨k, s, t, rfl, rfl, hE⟩ := h.ends
  · exact hf a s t hR
  · exact Res.inStep_raised hE

theorem Res.inStep_map {r r' : Res σ φ α} {f : α → β} (h : r.InStep E R r') : (r.map f).InStep E R (r'.map f) :=
  Res.inStep_bind h fun _ _ _ h => Res.inStep_ok h

theorem Res.inStep_ite {c : Prop} [Decidable c] {r₁ r₂ r₁' r₂' : Res σ φ α} (h₁ : r₁.InStep E R r₁') (h₂ : r₂.InStep E R r₂') :
    (if c then r₁ else r₂).InStep E R (if c then r₁' else r₂') := by
  split
  · exact h₁
  · exact h₂

theorem Res.inStep_mono {r r' : Res σ φ α} (hR : ∀ s t, R s t → R' s t) (h : r.InStep E R r') : r.InStep E R' r' := by
  obtain ⟨a, s, t, rfl, rfl, hst⟩ | ⟨k, s, t, rfl, rfl, hE⟩ := h.ends
  · exact Res.inStep_ok (hR s t hst)
  · exact Res.inStep_raised hE

/-- One read through the port leads from `R` to `R'`, from which one may read on; a `raise` may come at any time. -/
structure Port.AdvancesBoth (P : Port σ φ) (E R R' : σ → σ → Prop) : Prop where
  bit : ∀ {s t}, R s t → (P.bit s).InStep E R' (P.bit t)
  byte : ∀ {s t}, R s t → (P.byte s).InStep E R' (P.byte t)
  one : ∀ {s t}, R' s t → R' (P.one s) (P.one t)
  again : ∀ {s t}, R' s t → R s t
  raise : ∀ {s t}, R s t → E s t

end InStep

/-! ## Every element reads

The readers a token begins with lead from `R` to `R'`; those further on stay in `R'`. -/

section Readers
variable {σ φ : Type} {P : Port σ φ} {E R R' : σ → σ → Prop} {s t : σ}

theorem readBitsInto_inStep (hP : P.AdvancesBoth E R R') {n : Nat} {v : Word} (h : R' s t) :
    (readBitsInto P n v s).InStep E R' (readBitsInto P n v t) := by
  induction n generalizing v s t with
  | zero => exact Res.inStep_ok h
  | succ n ih => exact Res.inStep_bind (hP.bit (hP.again h)) fun _ _ _ h => ih h

theorem readField_inStep (hP : P.AdvancesBoth E R R') {n : Nat} (h : R' s t) :
    (readField P n s).InStep E R' (readField P n t) := readBitsInto_inStep hP h

theorem readField_advances (hP : P.AdvancesBoth E R R') {n : Nat} (h : R s t) :
    (readField P (n + 1) s).InStep E R' (readField P (n + 1) t) :=
  Res.inStep_bind (hP.bit h) fun _ _ _ h => readBitsInto_inStep hP h

theorem readWide_inStep (hP : P.AdvancesBoth E R R') {split : WideSplit} {n : Nat} (h : R' s t) :
    (readWide P split n s).InStep E R' (readWide P split n t) := by
  cases split with
  | bitsThenByte =>
    exact Res.inStep_bind (readField_inStep hP h) fun _ _ _ h =>
      Res.inStep_bind (hP.byte (hP.again h)) fun _ _ _ h => Res.inStep_ok h

theorem fitting_inStep (hP : P.AdvancesBoth E R R') {cfg : Config} {v : Word} (h : R' s t) :
    (fitting cfg v s : Res σ φ Word).InStep E R' (fitting cfg v t) :=
  Res.inStep_ite (Res.inStep_raised (hP.raise (hP.again h))) (Res.inStep_ok h)

theorem egZeros_inStep (hP : P.AdvancesBoth E R R') {left k : Nat} (h : R' s t) :
    (egZeros P left k s).InStep E R' (egZeros P left k t) := by
  induction left generalizing k s t with
  | zero => exact Res.inStep_ok h
  | succ left ih =>
    exact Res.inStep_bind (hP.bit (hP.again h)) fun _ _ _ h => Res.inStep_ite (Res.inStep_ok h) (ih h)

theorem egReadCode_inStep (hP : P.AdvancesBoth E R R') {cfg : Config} {limit : Nat} (h : R' s t) :
    (egReadCode P cfg limit s).InStep E R' (egReadCode P cfg limit t) := by
  refine Res.inStep_ite (Res.inStep_raised (hP.raise (hP.again h))) (Res.inStep_bind (egZeros_inStep hP h) fun k _ _ h => ?_)
  cases k with
  | none => exact Res.inStep_ok h
  | some k =>
    exact Res.inStep_bind (readBitsInto_inStep hP h) fun _ _ _ h => Res.inStep_map (fitting_inStep hP h)

theorem igLoop_advances (hP : P.AdvancesBoth E R R') {width n : Nat} {cont inverted : Bool} {sentinel value : Word} (h : R s t) :
    (igLoop P width cont inverted sentinel n value s).InStep E R' (igLoop P width cont inverted sentinel n value t) := by
  induction n generalizing value s t with
  | zero => exact Res.inStep_raised (hP.raise h)
  | succ n ih =>
    exact Res.inStep_bind (hP.bit h) fun _ _ _ h => Res.inStep_ite (Res.inStep_ok h) <|
      Res.inStep_ite (Res.inStep_raised (hP.raise (hP.again h))) <|
        Res.inStep_bind (hP.bit (hP.again h)) fun _ _ _ h => Res.inStep_ite (Res.inStep_ok h) (ih (hP.again h))

theorem igReadCode_advances (hP : P.AdvancesBoth E R R') {cfg : Config} {sentinel : Word} {inverted backwards : Bool} (h : R s t) :
    (igReadCode P cfg sentinel inverted backwards s).InStep E R' (igReadCode P cfg sentinel inverted backwards t) :=
  igLoop_advances hP h

theorem bbgOnes_inStep (hP : P.AdvancesBoth E R R') {left k : Nat} (h : R' s t) :
    (bbgOnes P left k s).InStep E R' (bbgOnes P left k t) := by
  induction left generalizing k s t with
  | zero => exact Res.inStep_ok h
  | succ left ih =>
    exact Res.inStep_bind (hP.bit (hP.again h)) fun _ _ _ h => Res.inStep_ite (ih h) (Res.inStep_ok h)

theorem bbgReadCode_inStep (hP : P.AdvancesBoth E R R') {cfg : Config} (h : R' s t) :
    (bbgReadCode P cfg s).InStep E R' (bbgReadCode P cfg t) := by
  refine Res.inStep_bind (bbgOnes_inStep hP h) fun k _ _ h => ?_
  cases k with
  | none => exact Res.inStep_ok h
  | some k =>
    exact Res.inStep_bind (readBitsInto_inStep hP h) fun _ _ _ h => Res.inStep_map (fitting_inStep hP h)

/-- A byte, and an instruction made of it: the end of many tokens. -/
theorem byte_inStep (hP : P.AdvancesBoth E R R') {α : Type} {f : Byte → α} (h : R s t) :
    ((P.byte s).bind fun v s => .ok (f v) s).InStep E R' ((P.byte t).bind fun v s => .ok (f v) s) :=
  Res.inStep_bind (hP.byte h) fun _ _ _ h => Res.inStep_ok h

theorem decodeMdk_advances (hP : P.AdvancesBoth E R R') (h : R s t) : (decodeMdk P s).InStep E R' (decodeMdk P t) :=
  Res.inStep_bind (hP.byte h) fun _ _ _ h => Res.inStep_ite (Res.inStep_ok h) <| Res.inStep_ite (Res.inStep_ok h) <|
    byte_inStep hP (hP.again h)

theorem decodeLzf_advances (hP : P.AdvancesBoth E R R') (h : R s t) : (decodeLzf P s).InStep E R' (decodeLzf P t) :=
  Res.inStep_bind (hP.byte h) fun _ _ _ h => Res.inStep_ite (Res.inStep_ok h) <| Res.inStep_ite (Res.inStep_ok h) <|
    Res.inStep_ite (Res.inStep_bind (hP.byte (hP.again h)) fun _ _ _ h => byte_inStep hP (hP.again h))
      (byte_inStep hP (hP.again h))

theorem decodePlt_advances (hP : P.AdvancesBoth E R R') {c : DecodeCtx} (h : R s t) :
    (decodePlt P c s).InStep E R' (decodePlt P c t) := by
  refine Res.inStep_bind (hP.bit h) fun _ _ _ h => Res.inStep_ite (byte_inStep hP (hP.again h)) ?_
  refine Res.inStep_bind (igReadCode_advances hP (hP.again h)) fun g _ _ h => ?_
  cases g with
  | none => exact Res.inStep_ok h
  | some g =>
    exact Res.inStep_bind (hP.byte (hP.again h)) fun _ _ _ h => Res.inStep_ite (Res.inStep_ok h)
      (Res.inStep_bind (readField_inStep hP h) fun _ _ _ h => Res.inStep_ok h)

theorem dan1Near_inStep (hP : P.AdvancesBoth E R R') {far : Bool} (h : R' s t) :
    (dan1Near P far s).InStep E R' (dan1Near P far t) :=
  Res.inStep_bind (hP.bit (hP.again h)) fun _ _ _ h => Res.inStep_ite
    (Res.inStep_bind (readField_inStep hP h) fun _ _ _ h => Res.inStep_ok h)
    (Res.inStep_bind (readField_inStep hP h) fun _ _ _ h => Res.inStep_ok h)

theorem dan1Mid_inStep (hP : P.AdvancesBoth E R R') {far : Bool} {len : Word} (h : R' s t) :
    (dan1Mid P far len s).InStep E R' (dan1Mid P far len t) :=
  Res.inStep_ite
    (Res.inStep_bind (hP.bit (hP.again h)) fun _ _ _ h =>
      Res.inStep_ite (byte_inStep hP (hP.again h)) (dan1Near_inStep hP h))
    (dan1Near_inStep hP h)

theorem dan1OffsetRead_inStep (hP : P.AdvancesBoth E R R') {cfg : Config} {len : Word} (h : R' s t) :
    (dan1OffsetRead P cfg len s).InStep E R' (dan1OffsetRead P cfg len t) :=
  Res.inStep_ite
    (Res.inStep_bind (hP.bit (hP.again h)) fun _ _ _ h =>
      Res.inStep_ite (Res.inStep_bind (readWide_inStep hP h) fun _ _ _ h => Res.inStep_ok h) (dan1Mid_inStep hP h))
    (dan1Mid_inStep hP h)

theorem decodeDan1_advances (hP : P.AdvancesBoth E R R') {c : DecodeCtx} (h : R s t) :
    (decodeDan1 P c s).InStep E R' (decodeDan1 P c t) := by
  refine Res.inStep_bind (hP.bit h) fun _ _ _ h => Res.inStep_ite (byte_inStep hP (hP.again h)) ?_
  refine Res.inStep_bind (egReadCode_inStep hP h) fun g _ _ h => ?_
  cases g with
  | none =>
    exact Res.inStep_bind (hP.bit (hP.again h)) fun _ _ _ h =>
      Res.inStep_ite (byte_inStep hP (hP.again h)) (Res.inStep_ok h)
  | some g => exact Res.inStep_bind (dan1OffsetRead_inStep hP h) fun _ _ _ h => Res.inStep_ok h

theorem subsetRead_advances (hP : P.AdvancesBoth E R R') {left : Nat} (h : R s t) :
    (subsetRead P left s).InStep E R' (subsetRead P left t) := by
  induction left generalizing s t with
  | zero =>
    exact Res.inStep_bind (hP.bit h) fun _ _ _ h =>
      Res.inStep_ite (Res.inStep_raised (hP.raise (hP.again h))) (Res.inStep_ok h)
  | succ left ih =>
    exact Res.inStep_bind (hP.bit h) fun _ _ _ h => Res.inStep_ite (ih (hP.again (hP.one h))) (Res.inStep_ok h)

theorem tierRead_inStep (hP : P.AdvancesBoth E R R') {codes : Dan3Prefix} {n : Nat} {bits : List Bool} (h : R' s t) :
    (tierRead P codes n bits s).InStep E R' (tierRead P codes n bits t) := by
  induction n generalizing bits s t with
  | zero => exact Res.inStep_raised (hP.raise (hP.again h))
  | succ n ih =>
    refine Res.inStep_bind (hP.bit (hP.again h)) fun b _ _ h => ?_
    cases codes.tierOf (bits ++ [b]) with
    | none => exact ih h
    | some tier => exact Res.inStep_ok h

theorem dan3OffsetRead_inStep (hP : P.AdvancesBoth E R R') {c : DecodeCtx} (h : R' s t) :
    (dan3OffsetRead P c s).InStep E R' (dan3OffsetRead P c t) := by
  refine Res.inStep_bind (tierRead_inStep hP h) fun tier _ _ h => ?_
  cases tier with
  | a => exact Res.inStep_bind (readField_inStep hP h) fun _ _ _ h => Res.inStep_ok h
  | b => exact byte_inStep hP (hP.again h)
  | c => exact Res.inStep_bind (readWide_inStep hP h) fun _ _ _ h => Res.inStep_ok h

theorem dan3Offset1Read_inStep (hP : P.AdvancesBoth E R R') (h : R' s t) :
    (dan3Offset1Read P s).InStep E R' (dan3Offset1Read P t) :=
  Res.inStep_bind (hP.bit (hP.again h)) fun _ _ _ h => Res.inStep_ite
    (Res.inStep_bind (readField_inStep hP h) fun _ _ _ h => Res.inStep_ok h) (Res.inStep_ok h)

theorem decodeDan3_advances (hP : P.AdvancesBoth E R R') {c : DecodeCtx} (h : R s t) :
    (decodeDan3 P c s).InStep E R' (decodeDan3 P c t) := by
  refine Res.inStep_bind (hP.bit h) fun _ _ _ h => Res.inStep_ite (byte_inStep hP (hP.again h)) ?_
  refine Res.inStep_bind (egReadCode_inStep hP h) fun g _ _ h => ?_
  cases g with
  | none =>
    exact Res.inStep_bind (hP.bit (hP.again h)) fun _ _ _ h =>
      Res.inStep_ite (byte_inStep hP (hP.again h)) (Res.inStep_ok h)
  | some g =>
    exact Res.inStep_bind (Res.inStep_ite (dan3Offset1Read_inStep hP h) (dan3OffsetRead_inStep hP h)) fun _ _ _ h =>
      Res.inStep_ok h

theorem decodeZx7_advances (hP : P.AdvancesBoth E R R') {c : DecodeCtx} (h : R s t) :
    (decodeZx7 P c s).InStep E R' (decodeZx7 P c t) := by
  refine Res.inStep_bind (hP.bit h) fun _ _ _ h => Res.inStep_ite (byte_inStep hP (hP.again h)) ?_
  refine Res.inStep_bind (egReadCode_inStep hP h) fun g _ _ h => ?_
  cases g with
  | none =>
    exact Res.inStep_bind (hP.bit (hP.again h)) fun _ _ _ h =>
      Res.inStep_ite (Res.inStep_ok h) (Res.inStep_raised (hP.raise (hP.again h)))
  | some g =>
    exact Res.inStep_bind (hP.byte (hP.again h)) fun _ _ _ h => Res.inStep_ite (Res.inStep_ok h)
      (Res.inStep_bind (readField_inStep hP h) fun _ _ _ h => Res.inStep_ok h)

theorem decodeZx0New_advances (hP : P.AdvancesBoth E R R') {c : DecodeCtx} (h : R s t) :
    (decodeZx0New P c s).InStep E R' (decodeZx0New P c t) := by
  refine Res.inStep_bind (igReadCode_advances hP h) fun m _ _ h => ?_
  have hraise := hP.raise (hP.again h)
  cases m with
  | none => exact Res.inStep_raised hraise
  | some m =>
    exact Res.inStep_ite (Res.inStep_ok h) <| Res.inStep_ite (Res.inStep_raised hraise) <| byte_inStep hP (hP.again h)

theorem zx0LengthRead_advances (hP : P.AdvancesBoth E R R') {c : DecodeCtx} (h : R s t) :
    (zx0LengthRead P c s).InStep E R' (zx0LengthRead P c t) := by
  refine Res.inStep_bind (igReadCode_advances hP h) fun n _ _ h => ?_
  cases n with
  | none => exact Res.inStep_raised (hP.raise (hP.again h))
  | some n => exact Res.inStep_ok h

theorem decodeBbLen_advances (hP : P.AdvancesBoth E R R') (h : R s t) : (decodeBbLen P s).InStep E R' (decodeBbLen P t) :=
  Res.inStep_bind (hP.byte h) fun _ _ _ h => Res.inStep_bind (hP.byte (hP.again h)) fun _ _ _ h =>
    Res.inStep_bind (hP.byte (hP.again h)) fun _ _ _ h => byte_inStep hP (hP.again h)

theorem decodeBbGamma_inStep (hP : P.AdvancesBoth E R R') {c : DecodeCtx} {d : Byte} {hi : BitVec 4} (h : R' s t) :
    (decodeBbGamma P c d hi s).InStep E R' (decodeBbGamma P c d hi t) := by
  refine Res.inStep_bind (bbgReadCode_inStep hP h) fun g _ _ h => ?_
  cases g with
  | none => exact Res.inStep_ite (Res.inStep_ok h) (Res.inStep_raised (hP.raise (hP.again h)))
  | some g => exact Res.inStep_ok h

theorem decodeBb_advances (hP : P.AdvancesBoth E R R') {c : DecodeCtx} (h : R s t) :
    (decodeBb P c s).InStep E R' (decodeBb P c t) :=
  Res.inStep_bind (hP.bit h) fun _ _ _ h => Res.inStep_ite (byte_inStep hP (hP.again h)) <|
    Res.inStep_bind (hP.byte (hP.again h)) fun _ _ _ h => Res.inStep_ite (decodeBbGamma_inStep hP h)
      (Res.inStep_bind (readField_inStep hP h) fun _ _ _ h => decodeBbGamma_inStep hP h)

/-- Whatever element is fetched, at least one read is made (R220). -/
theorem decodeElement_advances (hP : P.AdvancesBoth E R R') {c : DecodeCtx} {e : Element} (h : R s t) :
    (decodeElement P c e s).InStep E R' (decodeElement P c e t) := by
  cases e with
  | mdkToken => exact decodeMdk_advances hP h
  | lzfToken => exact decodeLzf_advances hP h
  | pltQ => exact Res.inStep_bind (readField_advances hP h) fun _ _ _ h => Res.inStep_ok h
  | pltToken => exact decodePlt_advances hP h
  | dan1Token => exact decodeDan1_advances hP h
  | dan3Subset => exact Res.inStep_bind (subsetRead_advances hP h) fun _ _ _ h => Res.inStep_ok h
  | dan3Token => exact decodeDan3_advances hP h
  | pltFirst | dan1First | dan3First | zx7First => exact byte_inStep hP h
  | zx7Token => exact decodeZx7_advances hP h
  | zx0Lits | zx0Rep => exact Res.inStep_bind (zx0LengthRead_advances hP h) fun _ _ _ h => Res.inStep_ok h
  | zx0New => exact decodeZx0New_advances hP h
  | bbLen => exact decodeBbLen_advances hP h
  | bbToken => exact decodeBb_advances hP h

end Readers

end Sys2Proof
end

section
/-! PROOFS. `TD_RUN` and `TD_STEP` on a started job (43_decoder_common.md R213): the reader's ends on a legal stream, the rules of the tokens in step, and the
measure by which every step comes nearer to the end. -/

namespace Sys2Proof.Machine

-- No concurrency, as in the tests.
set_option Elab.async false

/-- An open bit byte of a legal stream is a byte of the stream. -/
theorem State.streamOk.index_lt {s : State} (hs : s.streamOk) (hm : s.rMask ≠ 0) : s.rIndex < s.srcLen := by
  obtain ⟨-, hpos, hopen⟩ := hs
  have hlt := hopen hm
  bv_omega

/-! ## What is left to read -/

theorem State.unread_eq (s : State) :
    s.unread = (if s.rBacktrack then 1 else 0) + openBits s.rMask + 8 * (s.srcLen.toNat - s.rPos.toNat) := rfl

theorem openBits_none : openBits 0 = 0 := rfl

/-- After the first bit of a byte. -/
theorem openBits_fetched : openBits 0x40 = 7 := by decide

theorem openBits_le (mask : Byte) : openBits mask ≤ 8 := by
  revert mask
  decide

/-! Each read takes its bits off what is left. -/

theorem State.unread_pending {s : State} (hb : s.rBacktrack = true) :
    State.unread { s with rBacktrack := false } + 1 = s.unread := by
  simp only [State.unread_eq, hb, Bool.false_eq_true, if_true, if_false]
  omega

theorem State.unread_open {s : State} (hm : s.rMask ≠ 0) :
    State.unread { s with rMask := s.rMask >>> 1 } + 1 = s.unread := by
  have hshift := openBits_shift hm
  simp only [State.unread_eq]
  omega

theorem State.unread_fetch {s : State} (hm : s.rMask = 0) (hp : s.rPos < s.srcLen) :
    State.unread { s with rIndex := s.rPos, rPos := s.rPos + 1, rMask := 0x40 } + 1 = s.unread := by
  have hnext : (s.rPos + 1).toNat = s.rPos.toNat + 1 := by bv_omega
  have hlt : s.rPos.toNat < s.srcLen.toNat := hp
  simp only [State.unread_eq, hm, openBits_none, openBits_fetched, hnext]
  omega

theorem State.unread_byte {s : State} (v : Byte) (hp : s.rPos < s.srcLen) :
    State.unread { s with rPos := s.rPos + 1, rLast := v } + 8 = s.unread := by
  have hnext : (s.rPos + 1).toNat = s.rPos.toNat + 1 := by bv_omega
  have hlt : s.rPos.toNat < s.srcLen.toNat := hp
  simp only [State.unread_eq, hnext]
  omega

/-- R27: what a started job has left to read is bounded by its stream, and one pending bit. -/
theorem State.unread_le {s : State} (hs : s.streamOk) : s.unread ≤ 8 * s.srcLen.toNat + 1 := by
  obtain ⟨_, hpos, hopen⟩ := hs
  have hbit : (if s.rBacktrack then 1 else 0) ≤ 1 := by split <;> omega
  have hbits : openBits s.rMask ≤ 8 * s.rPos.toNat := by
    by_cases hm : s.rMask = 0
    · simp [openBits, hm]
    · have := openBits_le s.rMask
      have := hopen hm
      bv_omega
  rw [State.unread_eq]
  bv_omega

/-! ## Two states that differ in the response -/

/-- The states are equal but for the response to the last transaction. -/
def State.Twin (s t : State) : Prop := ∃ r, t = { s with resp := r }

theorem State.Twin.refl (s : State) : s.Twin s := ⟨s.resp, rfl⟩

theorem State.twin_answered (ws : List Word) (s : State) : s.Twin (s.answered ws) := ⟨_, rfl⟩

/-- A pair of twins in the middle of a step that began in `s₀`: the registers the job depends on are those of `s₀`, the stream is legal,
and fewer than `n` bits are left. -/
structure State.Reading (s₀ : State) (n : Nat) (s t : State) : Prop where
  twin : s.Twin t
  fault : s.fault = false
  codec : s.codec = s₀.codec
  srcLen : s.srcLen = s₀.srcLen
  stream : s.streamOk
  left : s.unread < n

section Steps
variable {s₀ s t : State} {n : Nat}

theorem State.Reading.again (h : s₀.Reading n s t) : s₀.Reading (n + 1) s t := { h with left := Nat.lt_succ_of_lt h.left }

/-- An update of both twins that the reader does not see. -/
theorem State.Reading.update {s' t' : State} (h : s₀.Reading n s t) (htwin : s'.Twin t')
    (hs : s' = { s with
      outLen := s'.outLen, dState := s'.dState, dLastOffset := s'.dLastOffset, dQ := s'.dQ, dSubset := s'.dSubset
      dSentinel := s'.dSentinel, dHdrLen := s'.dHdrLen, dTokens := s'.dTokens, out := s'.out }) : s₀.Reading n s' t' := by
  obtain ⟨_, hfault, hcodec, hlen, hstream, hleft⟩ := h
  rw [hs] at htwin ⊢
  exact ⟨htwin, hfault, hcodec, hlen, hstream, hleft⟩

theorem readBit_reading (h : s₀.Reading (n + 1) s t) :
    (readBit s).InStep State.Twin (s₀.Reading n) (readBit t) := by
  obtain ⟨⟨r, rfl⟩, hfault, hcodec, hlen, hs, hleft⟩ := h
  have ⟨hcap, hpos, hopen⟩ := hs
  obtain hb | hb := Bool.eq_false_or_eq_true s.rBacktrack
  · rw [readBit_of_pending hb, readBit_of_pending (s := { s with resp := r }) hb]
    have hunread := State.unread_pending hb
    exact ⟨rfl, ⟨r, rfl⟩, hfault, hcodec, hlen, hs, by omega⟩
  by_cases hm : s.rMask = 0
  · by_cases hp : s.rPos < s.srcLen
    · rw [readBit_of_closed hb hm hp hcap, readBit_of_closed (s := { s with resp := r }) hb hm hp hcap]
      have hunread := State.unread_fetch hm hp
      exact ⟨rfl, ⟨r, rfl⟩, hfault, hcodec, hlen, ⟨hcap, by simp only; bv_omega, fun _ => by simp only; bv_omega⟩, by omega⟩
    · have hp' := BitVec.not_lt.mp hp
      rw [readBit_at_end hb hm hp', readBit_at_end (s := { s with resp := r }) hb hm hp']
      exact ⟨rfl, r, rfl⟩
  · have hidx := hs.index_lt hm
    rw [readBit_of_open hb hm hidx hcap, readBit_of_open (s := { s with resp := r }) hb hm hidx hcap]
    have hunread := State.unread_open hm
    exact ⟨rfl, ⟨r, rfl⟩, hfault, hcodec, hlen, ⟨hcap, hpos, fun _ => hopen hm⟩, by omega⟩

theorem readByte_reading (h : s₀.Reading (n + 1) s t) :
    (readByte s).InStep State.Twin (s₀.Reading n) (readByte t) := by
  obtain ⟨⟨r, rfl⟩, hfault, hcodec, hlen, hs, hleft⟩ := h
  by_cases hp : s.rPos < s.srcLen
  · rw [readByte_of_lt hp hs.1, readByte_of_lt (s := { s with resp := r }) hp hs.1]
    have hunread := State.unread_byte (s.srcByte (s.physical s.rPos.toNat)) hp
    obtain ⟨hcap, hpos, hopen⟩ := hs
    refine ⟨rfl, ⟨r, rfl⟩, hfault, hcodec, hlen, ⟨hcap, by simp only; bv_omega, fun hm => ?_⟩, by omega⟩
    have hlt := hopen hm
    simp only
    bv_omega
  · have hp' := BitVec.not_lt.mp hp
    rw [readByte_at_end hp', readByte_at_end (s := { s with resp := r }) hp']
    exact ⟨rfl, r, rfl⟩

/-- The machine's port takes at least a bit off what is left with every read. -/
theorem statePort_advancesBoth (s₀ : State) (n : Nat) : statePort.AdvancesBoth State.Twin (s₀.Reading (n + 1)) (s₀.Reading n) where
  bit := readBit_reading
  byte := readByte_reading
  one := fun h => h.update (by obtain ⟨r, rfl⟩ := h.twin; exact ⟨r, rfl⟩) rfl
  again := State.Reading.again
  raise := State.Reading.twin

/-! ## The actions on `OUT` in step -/

theorem putByte_reading {v : Byte} (h : s₀.Reading n s t) : (putByte v s).InStep State.Twin (s₀.Reading n) (putByte v t) := by
  obtain ⟨r, rfl⟩ := h.twin
  exact Res.inStep_ite (Res.inStep_raised h.twin) (Res.inStep_ok (h.update ⟨r, rfl⟩ rfl))

theorem putRun_reading {v : Byte} {k : Nat} (h : s₀.Reading n s t) :
    (putRun v k s).InStep State.Twin (s₀.Reading n) (putRun v k t) := by
  induction k generalizing s t with
  | zero => exact Res.inStep_ok h
  | succ k ih => exact Res.inStep_bind (putByte_reading h) fun _ _ _ h => ih h

theorem putLiteral_reading (h : s₀.Reading n s t) : (putLiteral s).InStep State.Twin (s₀.Reading n) (putLiteral t) :=
  Res.inStep_bind (readByte_reading h.again) fun _ _ _ h => putByte_reading h

theorem literalRun_reading {k : Nat} (h : s₀.Reading n s t) :
    (literalRun k s).InStep State.Twin (s₀.Reading n) (literalRun k t) := by
  induction k generalizing s t with
  | zero => exact Res.inStep_ok h
  | succ k ih => exact Res.inStep_bind (putLiteral_reading h) fun _ _ _ h => ih h

theorem copyLoop_reading {offset k : Nat} (h : s₀.Reading n s t) :
    (copyLoop offset k s).InStep State.Twin (s₀.Reading n) (copyLoop offset k t) := by
  induction k generalizing s t with
  | zero => exact Res.inStep_ok h
  | succ k ih =>
    have hbyte : t.outByte (t.outLen.toNat - offset) = s.outByte (s.outLen.toNat - offset) := by
      obtain ⟨r, rfl⟩ := h.twin
      rfl
    rw [copyLoop, copyLoop, hbyte]
    exact Res.inStep_bind (putByte_reading h) fun _ _ _ h => ih h

theorem copy_reading {offset length : Nat} (h : s₀.Reading n s t) :
    (copy offset length s).InStep State.Twin (s₀.Reading n) (copy offset length t) := by
  have hlen : t.outLen = s.outLen := by obtain ⟨r, rfl⟩ := h.twin; rfl
  rw [copy, copy, hlen]
  exact Res.inStep_ite (Res.inStep_raised h.twin) (copyLoop_reading h)

/-! ## The rules of the tokens in step -/

/-- Where the rule of a token leaves the job: done, in `D_TOKEN`, or in a state of ZX0 for a ZX0 token (R212, 48_zx0.md R350). -/
def DState.follows (zx0 : Bool) (d : DState) : Prop :=
  d = .done ∨ if zx0 then d ∈ [DState.zx0Lit, .zx0Last, .zx0New] else d = .token

/-- A pair of twins at the end of a token. -/
def State.Left (s₀ : State) (n : Nat) (zx0 : Bool) (s t : State) : Prop := s₀.Reading n s t ∧ s.dState.follows zx0

variable {zx0 : Bool} {d : DState}

theorem setDState_left (h : s₀.Reading n s t) (hd : d.follows zx0) :
    (setDState d s).InStep State.Twin (s₀.Left n zx0) (setDState d t) := by
  obtain ⟨r, rfl⟩ := h.twin
  exact Res.inStep_ok ⟨h.update ⟨r, rfl⟩ rfl, hd⟩

theorem thenState_left {r r' : Res State Fault Unit} (h : r.InStep State.Twin (s₀.Reading n) r') (hd : d.follows zx0) :
    (thenState r d).InStep State.Twin (s₀.Left n zx0) (thenState r' d) :=
  Res.inStep_bind h fun _ _ _ h => setDState_left h hd

theorem counted_left {r r' : Res State Fault Unit} (h : r.InStep State.Twin (s₀.Left n zx0) r') :
    (counted r).InStep State.Twin (s₀.Left n zx0) (counted r') := by
  refine Res.inStep_bind h fun _ s t h => ?_
  obtain ⟨hread, hd⟩ := h
  obtain ⟨r, rfl⟩ := hread.twin
  exact Res.inStep_ok ⟨hread.update ⟨r, rfl⟩ rfl, hd⟩

theorem zx0StateBit_left {other : DState} (h : s₀.Reading n s t) (hd : other.follows true) :
    (zx0StateBit other s).InStep State.Twin (s₀.Left n true) (zx0StateBit other t) := by
  refine Res.inStep_bind (readBit_reading h.again) fun b _ _ h => setDState_left h ?_
  cases b with
  | true => exact .inr (by simp)
  | false => exact hd

theorem zx0MatchLength_reading (h : s₀.Reading (n + 1) s t) :
    (zx0MatchLength s).InStep State.Twin (s₀.Reading n) (zx0MatchLength t) := by
  obtain ⟨r, rfl⟩ := h.twin
  refine Res.inStep_bind (igReadCode_advances (statePort_advancesBoth s₀ n) h) fun g s t h => ?_
  obtain ⟨r, rfl⟩ := h.twin
  cases g with
  | none => exact Res.inStep_raised h.twin
  | some g => exact Res.inStep_ite (Res.inStep_raised h.twin) (Res.inStep_ok h)

/-- The bit `ZX0.MATCH` puts back is read again by the length code (48_zx0.md R356). -/
theorem zx0Match_left {msb : Word} {bo : Byte} (h : s₀.Reading n s t) :
    (zx0Match msb bo s).InStep State.Twin (s₀.Left n true) (zx0Match msb bo t) := by
  obtain ⟨⟨r, rfl⟩, hfault, hcodec, hlen, hstream, hleft⟩ := h
  have hback : s₀.Reading (n + 1) { s with dLastOffset := s.cfg.fit (zx0Offset msb bo), rBacktrack := true }
      { s with dLastOffset := s.cfg.fit (zx0Offset msb bo), rBacktrack := true, resp := r } := by
    refine ⟨⟨r, rfl⟩, hfault, hcodec, hlen, hstream, ?_⟩
    rw [State.unread_eq] at hleft ⊢
    simp only [if_true]
    omega
  refine Res.inStep_bind (zx0MatchLength_reading hback) fun length s t h => ?_
  obtain ⟨r, rfl⟩ := h.twin
  exact Res.inStep_bind (copy_reading h) fun _ _ _ h => zx0StateBit_left h (.inr (by simp))

theorem State.exchanges_resp (k : Nat) (s : State) (r : Response) :
    State.exchanges k { s with resp := r } = { State.exchanges k s with resp := r } := by
  induction k with
  | zero => rfl
  | succ k ih => rw [State.exchanges, ih]; rfl

theorem State.reverseOut_reading (h : s₀.Reading n s t) : s₀.Reading n s.reverseOut t.reverseOut := by
  obtain ⟨r, rfl⟩ := h.twin
  obtain ⟨m, hm⟩ : ∃ m, s.reverseOut = { s with out := m } := State.exchanges_frame _ s
  exact h.update ⟨r, State.exchanges_resp _ s r⟩ (by rw [hm])

theorem zx0End_left (h : s₀.Reading n s t) : (zx0End s).InStep State.Twin (s₀.Left n true) (zx0End t) := by
  have hmirror : t.dMirror = s.dMirror := by obtain ⟨r, rfl⟩ := h.twin; rfl
  obtain hm | hm := Bool.eq_false_or_eq_true s.dMirror
  · rw [zx0End_mirrored hm, zx0End_mirrored (hmirror.trans hm)]
    exact thenState_left (Res.inStep_ok (State.reverseOut_reading h)) (.inl rfl)
  · rw [zx0End_plain hm, zx0End_plain (hmirror.trans hm)]
    exact thenState_left (Res.inStep_ok h) (.inl rfl)

theorem bbLen_left {k : Word} (h : s₀.Reading n s t) : (bbLen k s).InStep State.Twin (s₀.Left n false) (bbLen k t) := by
  obtain ⟨r, rfl⟩ := h.twin
  have hread : s₀.Reading n { s with dHdrLen := s.cfg.fit k } { s with dHdrLen := s.cfg.fit k, resp := r } :=
    h.update ⟨r, rfl⟩ rfl
  refine Res.inStep_ite (Res.inStep_raised hread.twin) (setDState_left hread ?_)
  split
  · exact .inl rfl
  · exact .inr rfl

theorem bbEnd_left (h : s₀.Reading n s t) : (bbEnd s).InStep State.Twin (s₀.Left n false) (bbEnd t) := by
  obtain ⟨r, rfl⟩ := h.twin
  exact Res.inStep_ite (Res.inStep_raised h.twin) (setDState_left h (.inl rfl))

/-- The rule of every token that is a step of its own. -/
theorem runToken_left {i : Instr} {e : Element} (hi : elementOf i = some e) (he : e.isPart = false)
    (h : s₀.Reading n s t) : (runToken i s).InStep State.Twin (s₀.Left n e.ofZx0) (runToken i t) := by
  have htoken : DState.follows false .token := .inr rfl
  have hdone : ∀ zx0, DState.follows zx0 .done := fun _ => .inl rfl
  have hlit : DState.follows true .zx0Lit := .inr (by simp)
  have hlast : DState.follows true .zx0Last := .inr (by simp)
  cases i with
  | mdkRaw | lzfLrun | dan1Raw | dan3Raw => cases hi; exact thenState_left (literalRun_reading h) htoken
  | mdkRle => cases hi; exact thenState_left (putRun_reading h) htoken
  | pltFirst | pltLit | dan1First | dan1Lit | dan3First | dan3Lit | zx7First | zx7Lit | bbLit =>
    cases hi; exact thenState_left (putByte_reading h) htoken
  | lzfShort | lzfLong | pltMatch | dan1Match | dan3Match | zx7Match | bbMatch =>
    cases hi; exact thenState_left (copy_reading h) htoken
  | mdkEnd | lzfEnd | pltEnd | dan1End | dan3End | zx7End => cases hi; exact setDState_left h (hdone false)
  | pltQ | dan3Subset => cases hi; cases he
  | zx0Lits => cases hi; exact Res.inStep_bind (literalRun_reading h) fun _ _ _ h => zx0StateBit_left h hlast
  | zx0Rep =>
    have hoff : t.dLastOffset = s.dLastOffset := by obtain ⟨r, rfl⟩ := h.twin; rfl
    cases hi
    simp only [runToken, zx0Rep, hoff]
    exact Res.inStep_bind (copy_reading h) fun _ _ _ h => zx0StateBit_left h hlit
  | zx0Match => cases hi; exact zx0Match_left h
  | zx0End => cases hi; exact zx0End_left h
  | bbLen => cases hi; exact bbLen_left h
  | bbEnd => cases hi; exact bbEnd_left h
  | _ => cases hi

/-- The rule of the first part of a header. -/
theorem runPart_reading {i : Instr} {e : Element} (hi : elementOf i = some e) (he : e.isPart = true)
    (h : s₀.Reading n s t) : (runToken i s).InStep State.Twin (s₀.Reading n) (runToken i t) := by
  obtain ⟨r, rfl⟩ := h.twin
  cases i with
  | pltQ => exact Res.inStep_ite (Res.inStep_raised h.twin) (Res.inStep_ok (h.update ⟨r, rfl⟩ rfl))
  | dan3Subset => exact Res.inStep_ok (h.update ⟨r, rfl⟩ rfl)
  | _ => cases hi <;> cases he

/-! ## A step in step -/

theorem fetchElement_reading {e : Element} (h : s₀.Reading (n + 1) s t) :
    (fetchElement e s).InStep State.Twin (s₀.Reading n) (fetchElement e t) := by
  have hctx : t.decodeCtx = s.decodeCtx := by obtain ⟨r, rfl⟩ := h.twin; rfl
  rw [fetchElement, fetchElement, hctx]
  exact decodeElement_advances (statePort_advancesBoth s₀ n) h

/-- What an element does after it is fetched, for a postcondition that depends on the element alone. -/
theorem runElement_inStep {e : Element} {R : State → State → Prop} (h : s₀.Reading (n + 1) s t)
    (hrun : ∀ i s t, elementOf i = some e → s₀.Reading n s t → (runToken i s).InStep State.Twin R (runToken i t)) :
    (runElement e s).InStep State.Twin R (runElement e t) := by
  obtain ⟨i, u, v, hu, hv, hread⟩ | ⟨k, u, v, hu, hv, htwin⟩ := (fetchElement_reading (e := e) h).ends
  · obtain ⟨hi, -⟩ := fetchElement_ok h.fault hu
    rw [runElement_of_fetch hu, runElement_of_fetch hv]
    exact hrun i u v hi hread
  · rw [runElement_of_raised hu, runElement_of_raised hv]
    exact Res.inStep_raised htwin

theorem runElement_left {e : Element} (he : e.isPart = false) (h : s₀.Reading (n + 1) s t) :
    (runElement e s).InStep State.Twin (s₀.Left n e.ofZx0) (runElement e t) :=
  runElement_inStep h fun _ _ _ hi h => runToken_left hi he h

theorem runElement_part {e : Element} (he : e.isPart = true) (h : s₀.Reading (n + 1) s t) :
    (runElement e s).InStep State.Twin (s₀.Reading n) (runElement e t) :=
  runElement_inStep h fun _ _ _ hi h => runPart_reading hi he h

/-- In a token state there is a token, and it is ZX0's exactly in a ZX0 job (R217). -/
theorem State.tokenElement_exists (hd : s.dState ∈ [DState.token, .zx0Lit, .zx0Last, .zx0New])
    (hzx0 : s.dState = .token → s.jobCodec ≠ .zx0) :
    ∃ e, s.tokenElement = .ok e ∧ e.ofZx0 = decide (s.jobCodec = .zx0) := by
  unfold State.tokenElement
  cases hc : s.jobCodec with
  | zx0 =>
    simp only [List.mem_cons, List.not_mem_nil, or_false] at hd
    obtain hd | hd | hd | hd := hd
    · exact absurd hc (hzx0 hd)
    all_goals rw [hd]; exact ⟨_, rfl, rfl⟩
  | mdkRle | lzf | pletter | dan1 | dan3 | zx7 | bitBuster => exact ⟨_, rfl, rfl⟩

theorem tokenBody_left (h : s₀.Reading (n + 1) s t) (hd : s.dState ∈ [DState.token, .zx0Lit, .zx0Last, .zx0New])
    (hzx0 : s.dState = .token → s.jobCodec ≠ .zx0) :
    (tokenBody s).InStep State.Twin (s₀.Left n (decide (s.jobCodec = .zx0))) (tokenBody t) := by
  obtain ⟨e, he, hkind⟩ := State.tokenElement_exists hd hzx0
  have he' : t.tokenElement = .ok e := by obtain ⟨r, rfl⟩ := h.twin; exact he
  rw [tokenBody_eq_runElement he, tokenBody_eq_runElement he', ← hkind]
  exact runElement_left (State.tokenElement_isPart he) h

/-- The kinds of headers (R217). -/
theorem codec_cases (c : BitVec 3) : (c = 0 ∨ c = 1) ∨ c = 6 ∨ (c = 3 ∨ c = 5 ∨ c = 7) ∨ c = 2 ∨ c = 4 := by
  revert c
  decide

theorem headerBody_left (h : s₀.Reading (n + 1) s t) :
    (headerBody s).InStep State.Twin (s₀.Left n (decide (s.jobCodec = .zx0))) (headerBody t) := by
  obtain ⟨r, rfl⟩ := h.twin
  have hother : ∀ {c}, s.codec = c → c ≠ 6 → decide (s.jobCodec = .zx0) = false := fun hc hne => by
    simpa [State.jobCodec, codecOf_eq_zx0, hc] using hne
  obtain hc | hc | hc | hc | hc := codec_cases s.codec
  · rw [headerBody_noHeader hc, headerBody_noHeader (s := { s with resp := r }) hc]
    have hne : s.jobCodec ≠ .zx0 := by obtain hc | hc := hc <;> rw [State.jobCodec_of_codec hc] <;> decide
    exact tokenBody_left (h.update ⟨r, rfl⟩ rfl) (by simp) fun _ => hne
  · rw [headerBody_zx0 hc, headerBody_zx0 (s := { s with resp := r }) hc]
    exact tokenBody_left (h.update ⟨r, rfl⟩ rfl) (by simp) nofun
  · obtain ⟨e, he⟩ : ∃ e, (s.codec, e) ∈ [((3 : BitVec 3), Element.dan1First), (5, .zx7First), (7, .bbLen)] := by
      obtain hc | hc | hc := hc <;> simp [hc]
    rw [headerBody_one he, headerBody_one (s := { s with resp := r }) he]
    simp only [List.mem_cons, Prod.mk.injEq, List.not_mem_nil, or_false] at he
    obtain ⟨hc, rfl⟩ | ⟨hc, rfl⟩ | ⟨hc, rfl⟩ := he <;> rw [hother hc (by decide)] <;> exact runElement_left rfl h
  · rw [hother hc (by decide)]
    obtain hopt | hopt := Bool.eq_false_or_eq_true (s.opt.getLsbD 3)
    · rw [headerBody_dsk2rom hc hopt, headerBody_dsk2rom (s := { s with resp := r }) hc hopt]
      exact runElement_left rfl (h.update ⟨r, rfl⟩ rfl)
    · rw [headerBody_pletter hc hopt, headerBody_pletter (s := { s with resp := r }) hc hopt]
      exact Res.inStep_bind (runElement_part rfl h) fun _ _ _ h => runElement_left rfl h.again
  · rw [hother hc (by decide), headerBody_dan3 hc, headerBody_dan3 (s := { s with resp := r }) hc]
    exact Res.inStep_bind (runElement_part rfl (h.update ⟨r, rfl⟩ rfl)) fun _ _ _ h => runElement_left rfl h.again

end Steps

/-! ## The steps of a job -/

/-- More than the steps that can follow: one for `TD_RUN` to see `D_DONE`, and before that one for each bit left (R220), header included. -/
def State.stepsLeft (s : State) : Nat := if s.dState = .done then 1 else s.unread + 2

theorem State.stepsLeft_pos (s : State) : 1 ≤ s.stepsLeft := by
  unfold State.stepsLeft
  split <;> omega

/-- The bound of `TD_RUN` is no less (notes/assumptions/14.md). -/
theorem State.stepsLeft_le_bound {s : State} (hs : s.streamOk) : s.stepsLeft ≤ s.stepBound := by
  have := State.unread_le hs
  unfold State.stepsLeft State.stepBound
  split <;> omega

/-- Twins after a step from `s`: a started job that goes on or is done, one step nearer to the end. -/
structure State.Next (s u v : State) : Prop where
  twin : u.Twin v
  job : u.jobOk
  started : u.dState ≠ .idle
  srcLen : u.srcLen = s.srcLen
  nearer : u.stepsLeft < s.stepsLeft

section Runs
variable {s t : State}

/-- A token's end is a step's. -/
theorem State.Left.next {u v : State} (hdone : s.dState ≠ .done)
    (h : s.Left s.unread (decide (s.jobCodec = .zx0)) u v) : s.Next u v := by
  obtain ⟨⟨htwin, hfault, hcodec, hlen, hstream, hleft⟩, hd⟩ := h
  have hjob : u.jobCodec = s.jobCodec := State.jobCodec_of_codec hcodec
  have hstate : u.dState ≠ .fault ∧ u.dState ≠ .idle ∧ (u.dState = .token → u.jobCodec ≠ .zx0) := by
    rw [hjob]
    obtain hd | hd := hd
    · simp [hd]
    · by_cases hz : s.jobCodec = .zx0
      · simp only [hz, decide_true, if_true, List.mem_cons, List.not_mem_nil, or_false] at hd
        obtain hd | hd | hd := hd
        all_goals simp [hd]
      · simp only [hz, decide_false, Bool.false_eq_true, if_false] at hd
        simp [hd, hz]
  obtain ⟨hnofault, hidle, htoken⟩ := hstate
  refine ⟨htwin, ⟨hfault, hstream, hnofault, htoken⟩, hidle, hlen, ?_⟩
  unfold State.stepsLeft
  rw [if_neg hdone]
  split <;> omega

theorem State.jobOk.noFault (h : s.jobOk) : s.fault = false := h.1

theorem State.jobOk.stream (h : s.jobOk) : s.streamOk := h.2.1

theorem State.jobOk.reading (hjob : s.jobOk) (htwin : s.Twin t) : s.Reading (s.unread + 1) s t :=
  ⟨htwin, hjob.noFault, rfl, rfl, hjob.stream, Nat.lt_succ_self _⟩

theorem DState.tokenState_of_ne {d : DState} (hidle : d ≠ .idle) (hheader : d ≠ .header) (hdone : d ≠ .done)
    (hfault : d ≠ .fault) : d ∈ [DState.token, .zx0Lit, .zx0Last, .zx0New] := by
  cases d with
  | idle => exact absurd rfl hidle
  | header => exact absurd rfl hheader
  | done => exact absurd rfl hdone
  | fault => exact absurd rfl hfault
  | token | zx0Lit | zx0Last | zx0New => simp

/-- Every `TD_STEP` of a started job goes in step with its twin's, and nearer to the end. -/
theorem tdStep_inStep (hjob : s.jobOk) (hidle : s.dState ≠ .idle) (hdone : s.dState ≠ .done) (htwin : s.Twin t) :
    (tdStep s).InStep State.Twin s.Next (tdStep t) := by
  have hread := hjob.reading htwin
  obtain ⟨hf, hstream, hfault, htoken⟩ := hjob
  have hnext : ∀ {r r' : Res State Fault Unit},
      r.InStep State.Twin (s.Left s.unread (decide (s.jobCodec = .zx0))) r' →
        (counted r).InStep State.Twin s.Next (counted r') := fun h =>
    Res.inStep_mono (fun _ _ => State.Left.next hdone) (counted_left h)
  obtain ⟨r, rfl⟩ := htwin
  by_cases hheader : s.dState = .header
  · by_cases hempty : s.srcLen = 0 ∧ s.codec ∉ [(0 : BitVec 3), 7]
    · obtain ⟨hlen, hc⟩ := hempty
      rw [tdStep_emptyStream hheader hlen hc, tdStep_emptyStream (s := { s with resp := r }) hheader hlen hc]
      refine Res.inStep_ok ⟨⟨r, rfl⟩, ⟨hf, hstream, nofun, nofun⟩, nofun, rfl, ?_⟩
      unfold State.stepsLeft
      rw [if_pos rfl, if_neg hdone]
      omega
    · have hc : s.codec = 0 ∨ s.codec = 7 ∨ s.srcLen ≠ 0 := by
        simp only [List.mem_cons, List.not_mem_nil, or_false] at hempty
        tauto
      rw [tdStep_header hheader hc, tdStep_header (s := { s with resp := r }) hheader hc]
      exact hnext (headerBody_left hread)
  · have hd := DState.tokenState_of_ne hidle hheader hdone hfault
    rw [tdStep_of_tokenState hd, tdStep_of_tokenState (s := { s with resp := r }) hd]
    exact hnext (tokenBody_left hread hd htoken)

/-- The end of a run. -/
def State.Finished (s t : State) : Prop := s.Twin t ∧ s.dState = .done ∧ s.fault = false

theorem tdLoop_succ {k : Nat} (hjob : s.jobOk) (hdone : s.dState ≠ .done) :
    tdLoop (k + 1) s = (tdStep s).bind fun _ s => tdLoop k s := by
  obtain ⟨_, _, hfault, _⟩ := hjob
  rw [tdLoop, if_neg (by tauto)]

theorem State.Twin.jobOk (h : s.Twin t) (hjob : s.jobOk) : t.jobOk := by
  obtain ⟨r, rfl⟩ := h
  exact hjob

/-- The loop of `TD_RUN` ends, by induction on its bound, and the bound does not matter as long as it is enough. -/
theorem tdLoop_inStep {k m : Nat} (hjob : s.jobOk) (hidle : s.dState ≠ .idle) (htwin : s.Twin t)
    (hk : s.stepsLeft ≤ k) (hm : s.stepsLeft ≤ m) :
    (tdLoop k s).InStep State.Twin State.Finished (tdLoop m t) := by
  have hpos := s.stepsLeft_pos
  induction k generalizing m s t with
  | zero => omega
  | succ k ih =>
    obtain ⟨m, rfl⟩ : ∃ m', m = m' + 1 := ⟨m - 1, by omega⟩
    by_cases hdone : s.dState = .done
    · have hdone' : t.dState = .done := by obtain ⟨r, rfl⟩ := htwin; exact hdone
      rw [tdLoop_done hdone, tdLoop_done hdone']
      exact Res.inStep_ok ⟨htwin, hdone, hjob.noFault⟩
    · have hdone' : t.dState ≠ .done := by obtain ⟨r, rfl⟩ := htwin; exact hdone
      rw [tdLoop_succ hjob hdone, tdLoop_succ (htwin.jobOk hjob) hdone']
      refine Res.inStep_bind (tdStep_inStep hjob hidle hdone htwin) fun _ u v h => ?_
      have hnearer := h.nearer
      exact ih h.job h.started h.twin (by omega) (by omega) u.stepsLeft_pos

/-! ## The transactions -/

theorem tdRun_started (hidle : s.dState ≠ .idle) : tdRun s = tdLoop s.stepBound s := if_neg hidle

/-- Twins that end in step answer the same: the response is written anew. -/
theorem finish_of_inStep {body body' : State → Res State Fault Unit} {R : State → State → Prop}
    (h : (body s).InStep State.Twin R (body' t)) (hR : ∀ u v, R u v → u.Twin v) :
    finish (quiet body s) = finish (quiet body' t) := by
  obtain ⟨_, u, v, hu, hv, huv⟩ | ⟨k, u, v, hu, hv, htwin⟩ := h.ends
  · rw [quiet_of_ok hu, quiet_of_ok hv]
    obtain ⟨r, rfl⟩ := hR u v huv
    rfl
  · rw [quiet_of_raised hu, quiet_of_raised hv]
    obtain ⟨r, rfl⟩ := htwin
    rfl

/-- Settles O40: the run ends within its bound, done or with the fault of a step. -/
theorem runTerminates : Obligations.RunTerminates := by
  intro s hjob hidle
  have hbound := State.stepsLeft_le_bound hjob.stream
  have hloop := tdLoop_inStep hjob hidle (State.Twin.refl s) hbound hbound
  rw [exec_tdRun hjob.noFault]
  rw [← tdRun_started hidle] at hloop
  obtain ⟨_, u, _, hu, _, _, hdone, hfault⟩ | ⟨k, u, _, hu, _, _⟩ := hloop.ends
  · exact ⟨u.answered [], by rw [quiet_of_ok hu, finish_ok], .inl hdone, by simp [hdone, hfault]⟩
  · exact ⟨(u.raise k).answered [], by rw [quiet_of_raised hu, finish_raised], .inr rfl, by simp⟩

/-- A run is a step that completes and the run from after it. -/
theorem tdRun_of_step {u : State} (hjob : s.jobOk) (hidle : s.dState ≠ .idle) (hdone : s.dState ≠ .done)
    (hstep : tdStep s = .ok () u) (hnext : s.Next u u) : exec .tdRun s = exec .tdRun (u.answered []) := by
  have hbound := State.stepsLeft_le_bound hjob.stream
  have hbound' := State.stepsLeft_le_bound hnext.job.stream
  have hnearer := hnext.nearer
  obtain ⟨k, hk⟩ : ∃ k, s.stepBound = k + 1 := ⟨_, rfl⟩
  have hrun : tdRun s = tdLoop k u := by
    rw [tdRun_started hidle, hk, tdLoop_succ hjob hdone, hstep, Res.bind_of_ok]
  have hrun' : tdRun (u.answered []) = tdLoop u.stepBound (u.answered []) := tdRun_started (s := u.answered []) hnext.started
  have hloop := tdLoop_inStep hnext.job hnext.started (State.twin_answered [] u) (k := k) (by omega) hbound'
  rw [← hrun, ← hrun'] at hloop
  rw [exec_tdRun hjob.noFault, exec_tdRun (s := u.answered []) hnext.job.noFault]
  exact finish_of_inStep hloop fun _ _ h => h.1

/-- A run of which a step raises raises with it. -/
theorem tdRun_of_raised {u : State} {k : ErrKind} (hjob : s.jobOk) (hidle : s.dState ≠ .idle) (hdone : s.dState ≠ .done)
    (hstep : tdStep s = .raised k u) : tdRun s = .raised k u := by
  obtain ⟨m, hm⟩ : ∃ m, s.stepBound = m + 1 := ⟨_, rfl⟩
  rw [tdRun_started hidle, hm, tdLoop_succ hjob hdone, hstep, Res.bind_of_raised]

/-- Settles O41: with no job or a finished one both operations do the same (O36); otherwise by the end of the step. -/
theorem runIsSteps : Obligations.RunIsSteps := by
  intro s t hjob ht
  have hf := hjob.noFault
  obtain ⟨hIdle, hDone, _⟩ := stepWithoutReading s hf
  by_cases hidle : s.dState = .idle
  · obtain ⟨hstep, hrun⟩ := hIdle hidle
    rw [hrun, ← hstep, ht]
    rw [hstep, finish_raised] at ht
    cases ht
    exact ⟨nofun, fun _ => rfl⟩
  by_cases hdone : s.dState = .done
  · obtain ⟨hstep, hrun⟩ := hDone hdone
    rw [hstep] at ht
    cases ht
    obtain ⟨_, hDone', _⟩ := stepWithoutReading (s.answered []) hf
    refine ⟨fun _ => ?_, fun h => absurd h (by simp [hf])⟩
    rw [hrun, (hDone' hdone).2]
    rfl
  obtain ⟨_, u, v, hu, hv, hnext⟩ | ⟨k, u, _, hu, _, _⟩ := (tdStep_inStep hjob hidle hdone (State.Twin.refl s)).ends
  · obtain rfl : u = v := by simpa [hu] using hv
    rw [exec_tdStep hf, quiet_of_ok hu, finish_ok] at ht
    cases ht
    exact ⟨fun _ => tdRun_of_step hjob hidle hdone hu hnext, fun h => absurd h (by simp [hnext.job.noFault])⟩
  · rw [exec_tdStep hf, quiet_of_raised hu, finish_raised] at ht
    cases ht
    refine ⟨nofun, fun _ => ?_⟩
    rw [exec_tdRun hf, quiet_of_raised (tdRun_of_raised hjob hidle hdone hu), finish_raised]

end Runs

end Sys2Proof.Machine
end

section
/-! PROOFS. The tokens that copy: a match from `OUT` (43_decoder_common.md R215), a run from the stream (R214), and those of ZX0, which read a state bit
behind what they have written (48_zx0.md R351). An append to `OUT` and a read of the stream do not meet (20_memory.md R73), so what follows in the stream is read as
if nothing had been written. -/

namespace Sys2Proof.Machine

-- No concurrency, as in the tests.
set_option Elab.async false

variable {s t u : State}

/-! ## Appending and reading do not meet -/

/-- In either order they lead to one state. -/
theorem State.appends_reads {n : Nat} {v : Nat → Byte} {es : List Elem} (ha : s.appends u n v) (hr : statePort.Reads es s t) :
    ∃ w, statePort.Reads es u w ∧ t.appends w n v := by
  have hframe := statePort_reads_frame hr
  obtain ⟨hu, hlen, hnew, hold⟩ := ha
  have hbeside : u = s.beside u.out u.outLen s.dSubset := hu
  have hsubset : t.dSubset = s.dSubset := by rw [hframe]
  refine ⟨t.beside u.out u.outLen s.dSubset, ?_, ?_, ?_, ?_, ?_⟩
  · rw [hbeside]
    exact statePort_reads_beside _ _ _ hr
  · rw [← hsubset]
    rfl
  all_goals rw [hframe]
  · exact hlen
  · exact hnew
  · exact hold

theorem State.roomFor_of_appends {n m : Nat} {v : Nat → Byte} (ha : s.appends u n v) (h : s.roomFor (n + m)) :
    u.roomFor m := by
  have hlen := State.appends_outLen ha
  unfold State.roomFor at h ⊢
  rw [State.appends_cfg ha]
  omega

theorem State.roomFor_of_reads {n : Nat} {es : List Elem} (hr : statePort.Reads es s t) (h : s.roomFor n) : t.roomFor n := by
  rw [statePort_reads_frame hr]
  exact h

/-- Room for a byte, as `PUT_BYTE` asks for it. -/
theorem State.outLen_lt_of_roomFor {n : Nat} (h : s.roomFor (1 + n)) : s.outLen < s.cfg.outCap := by
  unfold State.roomFor at h
  rw [BitVec.lt_def]
  omega

/-! ## Runs and `COPY` with room -/

theorem putRun_appends (v : Byte) {n : Nat} (h : s.roomFor n) :
    ∃ t, putRun v n s = .ok () t ∧ s.appends t n (fun _ => v) := by
  have hrun : ∃ t, putRun v n s = .ok () t := by
    induction n generalizing s with
    | zero => exact ⟨s, rfl⟩
    | succ n ih =>
      rw [Nat.add_comm] at h
      obtain ⟨u, hput, happ⟩ := putByte_appends_of_lt v (State.outLen_lt_of_roomFor h)
      obtain ⟨t, ht⟩ := ih (State.roomFor_of_appends happ h)
      exact ⟨t, by rw [putRun, hput, Res.bind_of_ok, ht]⟩
  obtain ⟨t, ht⟩ := hrun
  exact ⟨t, ht, putRun_ok ht⟩

/-- A run over bytes that stand next in the stream reads them all and appends them all. -/
theorem literalRun_appends {bytes : List Byte} (hr : statePort.Reads (bytes.map .byte) s t) (hroom : s.roomFor bytes.length) :
    ∃ u, literalRun bytes.length s = .ok () u ∧ t.appends u bytes.length (fun k => bytes.getD k 0) := by
  induction bytes generalizing s t with
  | nil =>
    obtain rfl : s = t := hr
    exact ⟨s, rfl, State.appends_zero s _⟩
  | cons v bytes ih =>
    obtain ⟨m, hm, hrest⟩ := hr
    have hread : readByte s = .ok v m := hm
    rw [List.length_cons, Nat.add_comm] at hroom ⊢
    have hroom' : m.roomFor (1 + bytes.length) := State.roomFor_of_reads (es := [.byte v]) ⟨m, hm, rfl⟩ hroom
    obtain ⟨p, hp, hput⟩ := putByte_appends_of_lt v (State.outLen_lt_of_roomFor hroom')
    obtain ⟨q, hq, hfirst⟩ := State.appends_reads hput hrest
    obtain ⟨u, hu, hlast⟩ := ih hq (State.roomFor_of_appends hput hroom')
    refine ⟨u, ?_, State.appends_congr (State.appends_append hfirst hlast) fun k _ => ?_⟩
    · rw [Nat.add_comm, literalRun, putLiteral, hread, Res.bind_of_ok, hp, Res.bind_of_ok, hu]
    · cases k <;> simp

theorem literalRun_add (m n : Nat) (s : State) :
    literalRun (m + n) s = (literalRun m s).bind fun _ s => literalRun n s := by
  induction m generalizing s with
  | zero => rw [Nat.zero_add, literalRun, Res.bind_of_ok]
  | succ m ih =>
    rw [Nat.succ_add, literalRun, literalRun]
    cases putLiteral s with
    | ok _ t => exact ih t
    | raised | stuck => rfl

/-- At the end of the stream a run that still wants bytes raises, and has changed nothing. -/
theorem literalRun_at_end {s : State} {n : Nat} (hn : 0 < n) (h : s.srcLen ≤ s.rPos) :
    literalRun n s = .raised .truncatedStream s := by
  obtain ⟨m, rfl⟩ := Nat.exists_eq_succ_of_ne_zero hn.ne'
  rw [literalRun, putLiteral, readByte, if_pos h, Res.bind_of_raised, Res.bind_of_raised]

/-- A run that the stream ends in has copied the bytes before the end. -/
theorem literalRun_truncated {s u : State} {m n : Nat} (hrun : literalRun m s = .ok () u) (hlt : m < n)
    (hend : u.srcLen ≤ u.rPos) : literalRun n s = .raised .truncatedStream u := by
  obtain ⟨k, rfl⟩ := Nat.exists_eq_add_of_lt hlt
  rw [Nat.add_assoc, literalRun_add, hrun, Res.bind_of_ok, literalRun_at_end k.succ_pos hend]

/-- `COPY` of an offset within the output, with room (R215). -/
theorem copy_appends {offset length : Nat} (h₁ : 1 ≤ offset) (hle : offset ≤ s.outLen.toNat) (hroom : s.roomFor length) :
    ∃ u, copy offset length s = .ok () u ∧ s.appends u length (s.periodic offset) := by
  obtain ⟨-, hcopy, -⟩ := copyEffect s offset length
  exact hcopy h₁ hle hroom

/-- An offset of 0 or beyond the output is refused before anything is written (R215). -/
theorem copy_invalidBackReference {offset : Nat} (length : Nat) (h : offset < 1 ∨ s.outLen.toNat < offset) :
    copy offset length s = .raised .invalidBackReference s := if_pos h

/-! ## Offset fields that are carried in parts (20_memory.md R68) -/

/-- Putting a field behind another one adds it in the low bits. -/
theorem toNat_append_eq_add {m n : Nat} (x : BitVec m) (y : BitVec n) :
    (x ++ y).toNat = x.toNat * 2 ^ n + y.toNat := by
  rw [BitVec.toNat_append, ← Nat.shiftLeft_add_eq_or_of_lt y.isLt, Nat.shiftLeft_eq]

theorem toNat_append_byte {n : Nat} (hi : BitVec n) (lo : Byte) : (hi ++ lo).toNat = hi.toNat * 256 + lo.toNat :=
  toNat_append_eq_add hi lo

/-- Seven bits of a byte whose bit 7 is set, below the high bits. -/
theorem toNat_append_low_seven {n : Nat} (hi : BitVec n) {b : Byte} (h : ¬ b.toNat < 128) :
    (hi ++ b.setWidth 7).toNat = hi.toNat * 128 + (b.toNat - 128) := by
  have hb : (b.setWidth 7).toNat = b.toNat - 128 := by
    rw [BitVec.toNat_setWidth]
    omega
  exact (toNat_append_eq_add hi _).trans (congrArg (hi.toNat * 128 + ·) hb)

theorem lzfOffset_eq (hi : BitVec 5) (lo : Byte) : lzfOffset hi lo = hi.toNat * 256 + lo.toNat + 1 := by
  rw [lzfOffset, toNat_append_byte]

/-- The offset byte of Pletter, ZX7 and BitBuster: seven bits of offset alone, or the low part of a longer field with its own bias. -/
theorem shortOrLongOffset_eq {n : Nat} (b : Byte) (hi : BitVec n) (bias : Nat) :
    (if b < 128 then b.toNat + 1 else (hi ++ b.setWidth 7).toNat + bias) =
      if b.toNat < 128 then b.toNat + 1 else hi.toNat * 128 + (b.toNat - 128) + bias := by
  have hiff : b < 128 ↔ b.toNat < 128 := BitVec.lt_def
  by_cases h : b.toNat < 128
  · rw [if_pos (hiff.mpr h), if_pos h]
  · rw [if_neg (mt hiff.mp h), if_neg h, toNat_append_low_seven hi h]

theorem pltOffset_eq (bo : Byte) (extra : BitVec 6) :
    pltOffset bo extra = if bo.toNat < 128 then bo.toNat + 1 else extra.toNat * 128 + (bo.toNat - 128) + 1 :=
  shortOrLongOffset_eq bo extra 1

theorem zx7Offset_eq (bo : Byte) (high : BitVec 4) :
    zx7Offset bo high = if bo.toNat < 128 then bo.toNat + 1 else high.toNat * 128 + (bo.toNat - 128) + 129 :=
  shortOrLongOffset_eq bo high 129

theorem bbDistance_eq (d : Byte) (hi : BitVec 4) :
    bbDistance d hi = if d.toNat < 128 then d.toNat + 1 else hi.toNat * 128 + (d.toNat - 128) + 1 :=
  shortOrLongOffset_eq d hi 1

/-! ## Match tokens -/

/-- The rule of a match token: `COPY`, then `D_TOKEN`. -/
def matchRule (offset length : Nat) (s : State) : Res State Fault Unit := thenState (copy offset length s) .token

theorem matchShape_dan1Match {len : Word} {off : Dan1Offset} {offset length : Nat}
    (h : matchShape (.dan1Match len off) = some (offset, length)) : dan1Offset off = offset ∧ len.toNat = length := by
  cases off with
  | tier1 | tier2 | tier3 => simpa [matchShape, dan1Offset, Params.dan1Bound] using h
  | tier4 hi lo => simpa [matchShape, dan1Offset, Params.dan1Bound, toNat_append_byte] using h

theorem matchShape_dan3Match {len : Word} {off : Dan3Offset} {offset length : Nat}
    (h : matchShape (.dan3Match len off) = some (offset, length)) : dan3Offset off = offset ∧ len.toNat = length := by
  cases off with
  | one | two | tierA | tierB => simpa [matchShape, dan3Offset] using h
  | tierC hi lo => simpa [matchShape, dan3Offset, toNat_append_byte] using h

/-- A match token is its rule at the offset and the length its fields spell. -/
theorem exec_of_matchShape {i : Instr} {offset length : Nat} (h : matchShape i = some (offset, length)) (s : State) :
    exec i s = tokenStep (matchRule offset length) s := by
  cases i with
  | lzfShort control hi lo =>
    obtain ⟨rfl, rfl⟩ : lzfOffset hi lo = offset ∧ lzfShortLength control = length := by
      simpa [matchShape, lzfOffset_eq, lzfShortLength, Params.lzfMinMatch] using h
    rfl
  | lzfLong hi len9 lo =>
    obtain ⟨rfl, rfl⟩ : lzfOffset hi lo = offset ∧ lzfLongLength len9 = length := by
      simpa [matchShape, lzfOffset_eq, lzfLongLength, Params.lzfShortMaxLen] using h
    rfl
  | pltMatch g bo extra =>
    obtain ⟨rfl, rfl⟩ : pltOffset bo extra = offset ∧ pltLength g = length := by
      simpa [matchShape, pltOffset_eq, pltLength] using h
    rfl
  | dan1Match len off =>
    obtain ⟨rfl, rfl⟩ := matchShape_dan1Match h
    rfl
  | dan3Match len off =>
    obtain ⟨rfl, rfl⟩ := matchShape_dan3Match h
    rfl
  | zx7Match g bo high =>
    obtain ⟨rfl, rfl⟩ : zx7Offset bo high = offset ∧ zx7Length g = length := by
      simpa [matchShape, zx7Offset_eq, zx7Length] using h
    rfl
  | bbMatch d hi g =>
    obtain ⟨rfl, rfl⟩ : bbDistance d hi = offset ∧ bbLength g = length := by
      simpa [matchShape, bbDistance_eq, bbLength] using h
    rfl
  | _ => cases h

/-- Every offset form is biased by at least 1, so that no field spells the offset 0. -/
theorem matchShape_offset_pos {i : Instr} {offset length : Nat} (h : matchShape i = some (offset, length)) :
    1 ≤ offset := by
  cases i with
  | lzfShort | lzfLong => cases h; omega
  | pltMatch | zx7Match | bbMatch =>
    cases h
    split
    all_goals omega
  | dan1Match _ off | dan3Match _ off =>
    cases off with cases h
    | _ => omega
  | _ => cases h

/-- Settles O44: a match token is `COPY` at its offset and length, which is never 0; with room `COPY` completes, and an offset beyond the
output raises before anything is written. -/
theorem matchTokens : Obligations.MatchTokens := by
  intro i s offset length hshape hfault
  rw [exec_of_matchShape hshape]
  refine ⟨fun hle hroom => ?_, fun hfar => ?_⟩
  · obtain ⟨u, hcopy, happ⟩ := copy_appends (matchShape_offset_pos hshape) hle hroom
    exact ⟨u, happ, tokenStep_ok hfault (congrArg (thenState · .token) hcopy)⟩
  · exact tokenStep_raised hfault (congrArg (thenState · .token) (copy_invalidBackReference length (.inr hfar)))

/-! ## Run tokens -/

/-- The rule of a token that copies payload bytes: a literal run, then `D_TOKEN`. -/
def runRule (n : Nat) (s : State) : Res State Fault Unit := thenState (literalRun n s) .token

/-- A run token is its rule at the length its field spells. -/
theorem exec_of_runLength {i : Instr} {n : Nat} (h : runLength i = some n) (s : State) :
    exec i s = tokenStep (runRule n) s := by
  cases i with
  | mdkRaw | lzfLrun | dan1Raw | dan3Raw =>
    obtain rfl := Option.some.inj h
    rfl
  | _ => cases h

theorem exec_mdkRle (c : BitVec 7) (v : Byte) (s : State) :
    exec (.mdkRle c v) s = tokenStep (fun s => thenState (putRun v (c.toNat + 1) s) .token) s := rfl

/-- Settles O47: the run over the bytes that are there is common to both ends; it is the whole token, or the next byte is wanted
at the end of the stream. -/
theorem runTokens : Obligations.RunTokens := by
  refine ⟨fun i s t bytes n hlength hfault hreads hroom => ?_, fun s c v hfault hroom => ?_⟩
  · obtain ⟨u, hrun, happ⟩ := literalRun_appends (statePort_reads_of_reads hreads) hroom
    rw [exec_of_runLength hlength]
    refine ⟨u, happ, fun hwhole => ?_, fun hlt hend => ?_⟩
    · subst hwhole
      exact tokenStep_ok hfault (congrArg (thenState · .token) hrun)
    · have hendu : u.srcLen ≤ u.rPos := by rw [happ.1]; exact hend
      exact tokenStep_raised hfault (congrArg (thenState · .token) (literalRun_truncated hrun hlt hendu))
  · obtain ⟨u, hrun, happ⟩ := putRun_appends v hroom
    exact ⟨u, happ, tokenStep_ok hfault (congrArg (thenState · .token) hrun)⟩

/-! ## The state bit behind a token (R351) -/

/-- The reader meets a bit. -/
theorem State.reads_bit {b : Bool} (h : s.reads [.bit b] t) : readBit s = .ok b t := by
  obtain ⟨_, hb, rfl⟩ := statePort_reads_of_reads h
  exact hb

/-- The state a token leaves when its state bit is `b`. -/
def zx0Next (b : Bool) (other : DState) : DState := if b then .zx0New else other

theorem zx0StateBit_ok {b : Bool} {other : DState} (h : readBit s = .ok b t) :
    zx0StateBit other s = thenState (.ok () t) (zx0Next b other) := by
  rw [zx0StateBit, h]
  rfl

/-- What has been appended before the state bit does not change it. -/
theorem zx0StateBit_appends {n : Nat} {v : Nat → Byte} {b : Bool} (other : DState) (ha : s.appends u n v)
    (hr : readBit s = .ok b t) :
    ∃ w, t.appends w n v ∧ zx0StateBit other u = thenState (.ok () w) (zx0Next b other) := by
  obtain ⟨w, ⟨_, hw, rfl⟩, happ⟩ := State.appends_reads ha (es := [.bit b]) ⟨t, hr, rfl⟩
  exact ⟨_, happ, zx0StateBit_ok hw⟩

/-- The end of both match tokens: the copy, and the state bit. -/
def zx0CopyEnd (offset length : Nat) (s : State) : Res State Fault Unit :=
  (copy offset length s).bind fun _ s => zx0StateBit .zx0Lit s

theorem zx0CopyEnd_appends {offset length : Nat} {b : Bool} (hr : readBit s = .ok b t) (h₁ : 1 ≤ offset)
    (hle : offset ≤ s.outLen.toNat) (hroom : s.roomFor length) :
    ∃ w, t.appends w length (s.periodic offset) ∧
      zx0CopyEnd offset length s = thenState (.ok () w) (zx0Next b .zx0Lit) := by
  obtain ⟨u, hu, happ⟩ := copy_appends h₁ hle hroom
  obtain ⟨w, hw, hbit⟩ := zx0StateBit_appends .zx0Lit happ hr
  exact ⟨w, hw, (congrArg (Res.bind · _) hu).trans hbit⟩

theorem zx0CopyEnd_raised {offset : Nat} (length : Nat) (h : offset < 1 ∨ s.outLen.toNat < offset) :
    zx0CopyEnd offset length s = .raised .invalidBackReference s :=
  congrArg (Res.bind · _) (copy_invalidBackReference length h)

/-! ## `ZX0.LITS` and `ZX0.REP` -/

/-- A length that fits `OUT` is a number of 32 bits. -/
theorem State.toNat_ofNat_of_roomFor {n : Nat} (h : s.roomFor n) : (BitVec.ofNat 32 n).toNat = n := by
  unfold State.roomFor at h
  rw [BitVec.toNat_ofNat, Nat.mod_eq_of_lt (by omega)]

/-- Settles O50: the run appends the bytes, and the state bit behind them is read as it stood before the run was written. -/
theorem zx0LiteralRun : Obligations.Zx0LiteralRun := by
  intro s t bytes b hf hr hroom
  obtain ⟨m, hbytes, _, hbit, rfl⟩ := Port.reads_append.mp (statePort_reads_of_reads hr)
  obtain ⟨p, hp, happ⟩ := literalRun_appends hbytes hroom
  obtain ⟨u, hu, hend⟩ := zx0StateBit_appends .zx0Last happ hbit
  refine ⟨u, hu, tokenStep_ok (body := zx0Lits _) hf ?_⟩
  rw [zx0Lits, State.toNat_ofNat_of_roomFor hroom, hp, Res.bind_of_ok, hend]
  rfl

/-- `ZX0.REP` is nothing but that end, at the last offset (R355). -/
theorem zx0Rep_eq (len : Word) (s : State) : zx0Rep len s = zx0CopyEnd s.dLastOffset.toNat len.toNat s := rfl

/-- Settles O51: `ZX0.REP` is a copy at the last offset and a state bit, each of which ends in the way stated. -/
theorem zx0RepeatedOffset : Obligations.Zx0RepeatedOffset := by
  intro s len hf
  constructor
  · intro t b hr h₁ hle hroom
    obtain ⟨u, hu, hend⟩ := zx0CopyEnd_appends (State.reads_bit hr) h₁ hle hroom
    exact ⟨u, hu, tokenStep_ok (body := zx0Rep len) hf ((zx0Rep_eq len s).trans hend)⟩
  · intro hbad
    have hout : s.dLastOffset.toNat < 1 ∨ s.outLen.toNat < s.dLastOffset.toNat := by bv_omega
    exact tokenStep_raised (body := zx0Rep len) hf ((zx0Rep_eq len s).trans (zx0CopyEnd_raised len.toNat hout))

/-! ## `ZX0.MATCH` -/

/-- The offset of R356 does not wrap for any `msb` a match can have. -/
theorem zx0Offset_toNat {msb : Word} (bo : Byte) (h₁ : 1 ≤ msb) (h₂ : msb ≤ 255) :
    (zx0Offset msb bo).toNat = msb.toNat * 128 - bo.toNat / 2 := by
  have hhalf : (bo >>> 1).toNat = bo.toNat / 2 := by rw [BitVec.toNat_ushiftRight, Nat.shiftRight_eq_div_pow, Nat.pow_one]
  have hscaled : (msb <<< 7).toNat = msb.toNat * 128 := by
    rw [BitVec.toNat_shiftLeft, Nat.shiftLeft_eq]
    bv_omega
  unfold zx0Offset
  bv_omega

/-- The length of a match is one more than the value of its code (R356). -/
theorem zx0MatchLength_reads {length : Nat} (h₂ : 2 ≤ length) (hfits : length < 2 ^ s.cfg.valueBits)
    (hr : s.reads (bitElems (codeIg (s.cfg.igCont ^^ s.opt.getLsbD 1) false (length - 1))) t) :
    zx0MatchLength s = .ok length t := by
  have hreads := statePort_reads_of_reads hr
  have hcfg : t.cfg = s.cfg := by rw [statePort_reads_frame hreads]
  have hwidth : 2 ^ s.cfg.valueBits ≤ 2 ^ 32 := Nat.pow_le_pow_right Nat.two_pos (Nat.min_le_right _ _)
  have hvalue : (BitVec.ofNat 32 (length - 1)).toNat = length - 1 := by
    rw [BitVec.toNat_ofNat, Nat.mod_eq_of_lt (by omega)]
  rw [← hvalue, ← igCode_eq_codeIg] at hreads
  have hcode := igReadCode_spells (P := statePort) (sentinel := 0) (by bv_omega) (by omega) (.inl rfl) s t hreads
  rw [zx0MatchLength, State.optBackwards, hcode, Res.bind_of_ok]
  simp only [hvalue, hcfg]
  rw [show length - 1 + 1 = length by omega]
  exact if_neg (Nat.not_le.mpr hfits)

/-- The state in which the length of a match is read: the offset of its fields is the last offset, and the shared bit is pending. -/
def State.zx0OffsetTaken (msb : Word) (bo : Byte) (s : State) : State :=
  { s with dLastOffset := s.cfg.fit (zx0Offset msb bo), rBacktrack := true }

/-- A match whose length the stream holds ends as `ZX0.REP` does, at its own offset. -/
theorem zx0Match_reads {msb : Word} {bo : Byte} {length : Nat} (h₂ : 2 ≤ length) (hfits : length < 2 ^ s.cfg.valueBits)
    (hr : (s.zx0OffsetTaken msb bo).reads (bitElems (codeIg (s.cfg.igCont ^^ s.opt.getLsbD 1) false (length - 1))) t) :
    zx0Match msb bo s = zx0CopyEnd (s.cfg.fit (zx0Offset msb bo)).toNat length t := by
  have hlast : t.dLastOffset = s.cfg.fit (zx0Offset msb bo) := by
    rw [statePort_reads_frame (statePort_reads_of_reads hr)]
    rfl
  have hlen : zx0MatchLength (s.zx0OffsetTaken msb bo) = .ok length t := zx0MatchLength_reads h₂ hfits hr
  rw [← hlast]
  exact congrArg (Res.bind · _) hlen

/-- Settles O52: with the offset known, the match ends as a copy at it and a state bit do, behind the length's code. -/
theorem zx0NewOffset : Obligations.Zx0NewOffset := by
  intro s r t msb bo offset length b hf hmsb hmsb' hoffset hlength hfits hoffsetFits _ hr hcode
  have hrange : 1 ≤ offset ∧ offset ≤ 32640 := by bv_omega
  have hnat : (zx0Offset msb bo).toNat = offset := (zx0Offset_toNat bo hmsb hmsb').trans hoffset.symm
  have hfit : s.cfg.fit (zx0Offset msb bo) = zx0Offset msb bo := Config.fit_of_lt (hnat ▸ hoffsetFits)
  obtain rfl : r = s.zx0OffsetTaken msb bo := by
    rw [hr, State.zx0OffsetTaken, hfit, ← hnat, BitVec.ofNat_toNat, BitVec.setWidth_eq]
  have hbody := zx0Match_reads hlength hfits hcode
  rw [hfit, hnat] at hbody
  have hreads : statePort.Reads _ (s.zx0OffsetTaken msb bo) t := statePort_reads_of_reads hcode
  have hframe := statePort_reads_frame hreads
  have hout : t.outLen = s.outLen := by rw [hframe]; rfl
  have hbyte : t.periodic offset = s.periodic offset := by rw [hframe]; rfl
  refine ⟨hrange.1, hrange.2, fun hfar => ?tooFar, fun w hbit hle hroom => ?copied⟩
  case tooFar =>
    exact tokenStep_raised (body := zx0Match msb bo) hf (hbody.trans (zx0CopyEnd_raised length (.inr (hout ▸ hfar))))
  case copied =>
    have hroom' : t.roomFor length := State.roomFor_of_reads hreads hroom
    obtain ⟨u, hu, hend⟩ := zx0CopyEnd_appends (State.reads_bit hbit) hrange.1 (hout ▸ hle) hroom'
    rw [hbyte] at hu
    exact ⟨u, hu, tokenStep_ok (body := zx0Match msb bo) hf (hbody.trans hend)⟩

end Sys2Proof.Machine
end

section
/-! PROOFS. The match scanner (42_scanner.md), its operations: which mode each is legal in, what `MS_INIT`, `MS_INSERT`, `MS_LINEAR` and `MS_STEP_RUN`
do in every configuration, and what the two counting loops count. -/

namespace Sys2Proof.Machine

-- No concurrency, as in the tests.
set_option Elab.async false

variable {s : State} {i : Word}

/-! ## The modes (R181) -/

theorem State.mode_eq_chain (s : State) : s.mode = .chain ↔ s.msMode = 0 :=
  (by decide : ∀ m : BitVec 2, msModeOf m = .chain ↔ m = 0) s.msMode

theorem State.mode_eq_linear (s : State) : s.mode = .linear ↔ s.msMode = 1 :=
  (by decide : ∀ m : BitVec 2, msModeOf m = .linear ↔ m = 1) s.msMode

theorem State.mode_eq_run (s : State) : s.mode = .run ↔ s.msMode = 2 :=
  (by decide : ∀ m : BitVec 2, msModeOf m = .run ↔ m = 2) s.msMode

theorem State.mode_eq_reserved (s : State) : s.mode = .reserved ↔ s.msMode = 3 :=
  (by decide : ∀ m : BitVec 2, msModeOf m = .reserved ↔ m = 3) s.msMode

/-- Without a fault an operation of one mode is its body there, and raises elsewhere. -/
theorem operation_inMode {m : MsMode} {body : State → Res State Fault (List Word)} (hf : s.fault = false) :
    operation (inMode m body) s = if s.mode = m then finish (body s) else finish (.raised .malformedToken s) := by
  rw [operation_runs hf, inMode]
  split <;> rfl

theorem exec_msInit (s : State) : exec .msInit s = finish (msInit s.clearFault) := rfl

theorem exec_msInsert (hf : s.fault = false) : exec (.msInsert i) s =
    if s.msMode = 0 then finish (msInsert i s) else finish (.raised .malformedToken s) := by
  simp only [← s.mode_eq_chain]
  exact operation_inMode hf

theorem exec_msWalk (hf : s.fault = false) : exec (.msWalk i) s =
    if s.msMode = 0 then finish (msWalk i s) else finish (.raised .malformedToken s) := by
  simp only [← s.mode_eq_chain]
  exact operation_inMode hf

theorem exec_msLinear (hf : s.fault = false) : exec (.msLinear i) s =
    if s.msMode = 1 then finish (msLinear i s) else finish (.raised .malformedToken s) := by
  simp only [← s.mode_eq_linear]
  exact operation_inMode hf

theorem exec_msStepRun (hf : s.fault = false) : exec .msStepRun s =
    if s.msMode = 2 then finish (msStepRun s) else finish (.raised .malformedToken s) := by
  simp only [← s.mode_eq_run]
  exact operation_inMode hf

/-- Settles O34: outside its mode each of the four operations is the raise alone. -/
theorem scanModes : Obligations.ScanModes := by
  intro s i hf
  exact ⟨fun h => ⟨by rw [exec_msInsert hf, if_neg h], by rw [exec_msWalk hf, if_neg h]⟩,
    fun h => by rw [exec_msLinear hf, if_neg h], fun h => by rw [exec_msStepRun hf, if_neg h]⟩

/-! ## `MS_INIT` (R182) -/

theorem State.scanConfigured_iff (s : State) : s.scanConfigured = true ↔
    s.msMode ≠ 3 ∧ s.msMaxOff ≠ 0 ∧ s.msMaxOff ≤ s.cfg.srcCap ∧ s.msMaxLen ≠ 0 := by
  simp [State.scanConfigured, s.mode_eq_reserved]

/-- The limit `MS_INIT` compares with is the codec's entry in the list of limits, cut at `SRC_CAP`. -/
theorem State.toNat_maxInput (s : State) : s.maxInput.toNat = s.inputLimit := by
  have toNat_cut (limit : Word) : (if limit ≤ s.cfg.srcCap then limit else s.cfg.srcCap).toNat =
      min s.cfg.srcCap.toNat limit.toNat := by
    split <;> bv_omega
  have codes : ∀ c : BitVec 3, c = 0 ∨ c = 1 ∨ c = 2 ∨ c = 3 ∨ c = 4 ∨ c = 5 ∨ c = 6 ∨ c = 7 := by decide
  rw [State.maxInput, toNat_cut, State.inputLimit, State.jobCodec]
  obtain h | h | h | h | h | h | h | h := codes s.codec
  all_goals rw [h]; rfl

/-- `CLEAR_FAULT` leaves what `MS_INIT` samples. -/
theorem State.clearFault_scanConfigured (s : State) : s.clearFault.scanConfigured = s.scanConfigured := by
  rw [Bool.eq_iff_iff, State.scanConfigured_iff, State.scanConfigured_iff]
  simp

theorem State.clearFault_inputLimit (s : State) : s.clearFault.inputLimit = s.inputLimit := by
  simp [State.inputLimit]

/-- `MS_INIT` in the order of its checks (60_exceptions.md R408). -/
theorem msInit_cases (s : State) : msInit s.clearFault =
    if s.scanConfigured = false then .raised .malformedToken s.clearFault
    else if s.inputLimit < s.srcLen.toNat then .raised .inputTooLarge s.clearFault
    else .ok [] s.clearFault.scanStart := by
  simp only [msInit, BitVec.lt_def, State.toNat_maxInput, State.clearFault_inputLimit, State.clearFault_srcLen,
    State.clearFault_scanConfigured]

/-- Settles O26: the three ends of `MS_INIT`, and the entries its tables then hold. -/
theorem scanStart : Obligations.ScanStart := by
  intro s
  refine ⟨fun h => ?_, fun hmode hoff hcap hlen => ?_⟩
  · have hc : s.scanConfigured = false := by
      rw [Bool.eq_false_iff, Ne, s.scanConfigured_iff]
      rintro ⟨hmode, hoff, hcap, hlen⟩
      obtain h | h | h | h := h
      · exact hmode h
      · exact hoff h
      · exact absurd hcap (by bv_omega)
      · exact hlen h
    rw [exec_msInit, msInit_cases, if_pos hc]
  · have hc : ¬ s.scanConfigured = false := by
      rw [Bool.not_eq_false]
      exact s.scanConfigured_iff.mpr ⟨hmode, hoff, hcap, hlen⟩
    rw [exec_msInit, msInit_cases, if_neg hc]
    refine ⟨fun h => by rw [if_pos h], fun h => ?_⟩
    rw [if_neg (by omega)]
    refine ⟨s.clearFault.scanStart.head, Table.void, s.clearFault.scanStart.mlen, rfl, fun a => ?_, fun a => ?_,
      Table.read_void⟩
    · simp [State.scanStart_head_read, State.mode_eq_chain, Params.keys]
    · simp [State.scanStart_mlen_read, State.mode_eq_run]

/-! ## `MS_INSERT` (R183, R184) -/

theorem State.keyAt_eq (s : State) (i : Nat) : s.keyAt i = (s.srcByte (i - 1)).toNat * 256 + (s.srcByte i).toNat := by
  rw [State.keyAt, toNat_append_byte]

theorem State.keyAt_lt (s : State) (i : Nat) : s.keyAt i < 65536 := (s.srcByte (i - 1) ++ s.srcByte i).isLt

/-- Two positions have one key exactly when their two bytes are equal: there are no collisions (R183). -/
theorem State.keyAt_eq_keyAt (s : State) (i j : Nat) :
    s.keyAt i = s.keyAt j ↔ s.srcByte (i - 1) = s.srcByte (j - 1) ∧ s.srcByte i = s.srcByte j := by
  rw [s.keyAt_eq, s.keyAt_eq]
  bv_omega

/-- The state with position `i` in front of its key's chain. -/
def State.inserted (s : State) (i : Word) : State :=
  { s with
    prev := s.prev.write i.toNat (s.headEntry (s.keyAt i.toNat))
    head := s.head.write (s.keyAt i.toNat) i
    sPos := i + 1 }

theorem msInsert_raised (h : i = 0 ∨ s.srcLen ≤ i ∨ i < s.sPos) : msInsert i s = .raised .malformedToken s :=
  if_pos (h.imp_left (by bv_omega))

theorem msInsert_ok (h0 : i ≠ 0) (hlen : i < s.srcLen) (hpos : s.sPos ≤ i) (hcap : s.srcLen ≤ s.cfg.srcCap) :
    msInsert i s = .ok [] (s.inserted i) := by
  rw [msInsert, if_neg (by bv_omega), if_neg (by bv_omega)]
  rfl

theorem State.canonical_iff (s : State) : s.canonical = true ↔
    Memory.wf s.src = true ∧ Memory.wf s.out = true ∧ s.head.wf = true ∧ s.prev.wf = true ∧ s.mlen.wf = true := by
  simp [State.canonical, and_assoc]

/-- Settles O27: the three refused positions, and the two entries that the insertion of another writes. -/
theorem insertEffect : Obligations.InsertEffect := by
  intro s i hf hm
  rw [exec_msInsert hf, if_pos hm]
  refine ⟨fun h => by rw [msInsert_raised h], fun h0 hlen hpos hcap hwf => ?_⟩
  obtain ⟨_, _, hhead, hprev, _⟩ := s.canonical_iff.mp hwf
  rw [msInsert_ok h0 hlen hpos hcap]
  refine ⟨(s.inserted i).head, (s.inserted i).prev, rfl, fun key hkey => ?_⟩
  rw [← s.keyAt_eq] at hkey
  subst hkey
  refine ⟨Table.read_write_same _ _ hhead, fun k hk => Table.read_write_other _ _ hk, fun old hold => ?_,
    fun a ha => Table.read_write_other _ _ ha⟩
  have hentry : s.headEntry (s.keyAt i.toNat) = old := by rw [State.headEntry, hold, Option.getD_some]
  rw [← hentry]
  exact Table.read_write_same _ _ hprev

/-! ## What the counting loops of R185 and R192 count -/

section Extent
variable {same : Nat → Bool} {n : Nat}

theorem extentOf_succ (same : Nat → Bool) (n : Nat) :
    extentOf same (n + 1) = if same 0 = true then extentOf (fun k => same (k + 1)) n + 1 else 0 := by
  rw [extentOf, List.range_succ_eq_map, List.takeWhile_cons]
  split
  · rw [List.takeWhile_map, List.length_cons, List.length_map]
    rfl
  · rfl

theorem extentOf_le : extentOf same n ≤ n := by
  simpa [extentOf] using (List.takeWhile_sublist (l := List.range n) same).length_le

/-- Every comparison that is counted has succeeded. -/
theorem same_of_lt_extentOf {k : Nat} (h : k < extentOf same n) : same k = true := by
  induction n generalizing same k with
  | zero => exact absurd h (Nat.not_lt_zero k)
  | succ n ih =>
    rw [extentOf_succ] at h
    split at h
    · next h0 =>
      cases k with
      | zero => exact h0
      | succ k => exact ih (same := fun k => same (k + 1)) (Nat.lt_of_succ_lt_succ h)
    · exact absurd h (Nat.not_lt_zero k)

/-- Where the count ends before its bound, a comparison has failed. -/
theorem not_same_extentOf (h : extentOf same n < n) : same (extentOf same n) = false := by
  induction n generalizing same with
  | zero => exact absurd h (Nat.not_lt_zero _)
  | succ n ih =>
    rw [extentOf_succ] at h ⊢
    split at h
    · next h0 =>
      rw [if_pos h0]
      exact ih (same := fun k => same (k + 1)) (Nat.lt_of_succ_lt_succ h)
    · next h0 => simp [h0]

theorem extentOf_pos (hn : 0 < n) (h0 : same 0 = true) : 1 ≤ extentOf same n := by
  obtain ⟨n, rfl⟩ := Nat.exists_eq_succ_of_ne_zero (Nat.ne_of_gt hn)
  rw [extentOf_succ, if_pos h0]
  exact Nat.le_add_left 1 _

/-- A loop that adds 1 to `l`, at most `n` times, while the comparison at `l` succeeds. -/
theorem loop_eq_extentOf {loop : Nat → Nat → Nat} (hzero : ∀ l, loop 0 l = l)
    (hsucc : ∀ n l, loop (n + 1) l = if same l = true then loop n (l + 1) else l) (n l : Nat) :
    loop n l = extentOf (fun k => same (k + l)) n + l := by
  induction n generalizing l with
  | zero => simpa [extentOf] using hzero l
  | succ n ih =>
    rw [hsucc, extentOf_succ, Nat.zero_add]
    split
    · rw [ih]
      simp only [Nat.add_assoc, Nat.add_comm 1]
    · rw [Nat.zero_add]

end Extent

theorem State.extentBack_eq (s : State) (i j : Nat) :
    s.extentBack i j (min s.msMaxLen.toNat (j + 1)) 0 = s.backExtent i j :=
  loop_eq_extentOf (same := fun l => s.srcByte (i - l) = s.srcByte (j - l)) (fun _ => rfl)
    (fun n l => by simp [State.extentBack]) _ 0

theorem State.extentForward_eq (s : State) (i offset : Nat) :
    s.extentForward i offset (min s.msMaxLen.toNat (s.srcLen.toNat - i)) 0 = s.forwardExtent i offset :=
  loop_eq_extentOf (same := fun l => s.srcByte (i + l) = s.srcByte (i - offset + l)) (fun _ => rfl)
    (fun n l => by simp [State.extentForward]) _ 0

/-! ## `MS_LINEAR` (R192) -/

theorem pairWords_cons (p : Nat × Nat) (ps : List (Nat × Nat)) :
    pairWords (p :: ps) = BitVec.ofNat 32 p.1 :: BitVec.ofNat 32 p.2 :: pairWords ps := rfl

/-- The offset with its forward extent. -/
def State.linearPair (s : State) (i offset : Nat) : Nat × Nat := (offset, s.forwardExtent i offset)

/-- The loop of R192 from an offset on. -/
theorem State.linearPairs_eq (hcap : s.srcLen ≤ s.cfg.srcCap) (i n offset : Nat) : s.linearPairs i n offset =
    .ok (pairWords (((List.range' offset n).map (s.linearPair i)).filter fun p => 1 ≤ p.2)) := by
  induction n generalizing offset with
  | zero => rfl
  | succ n ih =>
    rw [State.linearPairs_succ _ _ _ hcap, ih, s.extentForward_eq, List.range'_succ, List.map_cons, List.filter_cons]
    by_cases h : 1 ≤ s.forwardExtent i offset
    · simp [h, State.linearPair, pairWords_cons]
    · simp [h, State.linearPair]

/-- Settles O32: the loop over the offsets from 1 on, each with the extent it counts. -/
theorem linearResult : Obligations.LinearResult := by
  intro s i hf hm
  rw [exec_msLinear hf, if_pos hm, msLinear]
  refine ⟨fun h => by rw [if_pos h], fun hlen hcap => ?_⟩
  rw [if_neg (by bv_omega), s.linearPairs_eq hcap, finish_ok, List.range'_eq_map_range, List.map_map]
  simp only [Function.comp_def, State.linearPair, Nat.add_comm 1]

/-! ## `MS_STEP_RUN` (R194) -/

/-- The loop of R194 writes `MLEN` alone. -/
theorem State.stepRuns_frame (p n off : Nat) (s : State) :
    State.stepRuns p n off s = { s with mlen := (State.stepRuns p n off s).mlen } := by
  induction n generalizing off s with
  | zero => rfl
  | succ n ih =>
    rw [State.stepRuns]
    exact ih _ _

/-- The entries outside the loop's offsets are not touched. -/
theorem State.stepRuns_read_outside (p n off : Nat) (s : State) {a : Nat} (h : a < off ∨ off + n ≤ a) :
    (State.stepRuns p n off s).mlen.read a = s.mlen.read a := by
  induction n generalizing off s with
  | zero => rfl
  | succ n ih =>
    rw [State.stepRuns, ih _ _ (by omega)]
    exact Table.read_write_other _ _ (by omega)

/-- The run at each of its offsets is extended by 1, or reset. -/
theorem State.stepRuns_read_inside (p n off : Nat) {s : State} (hwf : s.mlen.wf = true) {a : Nat} {run : Word}
    (hlo : off ≤ a) (hhi : a < off + n) (hr : s.mlen.read a = some run) :
    (State.stepRuns p n off s).mlen.read a = some (if s.srcByte p = s.srcByte (p - a) then run + 1 else 0) := by
  induction n generalizing off s with
  | zero => omega
  | succ n ih =>
    rw [State.stepRuns]
    obtain rfl | hne := Nat.eq_or_lt_of_le hlo
    · have hentry : s.mlenEntry off = run := by rw [State.mlenEntry, hr, Option.getD_some]
      rw [State.stepRuns_read_outside _ _ _ _ (.inl (Nat.lt_succ_self off)), hentry]
      exact Table.read_write_same _ _ hwf
    · exact ih (off + 1) (Table.wf_write _ _ hwf) hne (by omega)
        ((Table.read_write_other _ _ (Nat.ne_of_gt hne)).trans hr)

theorem msStepRun_raised (h : s.srcLen ≤ s.sPos) : msStepRun s = .raised .malformedToken s := if_pos h

theorem msStepRun_ok (hlen : s.sPos < s.srcLen) (hcap : s.srcLen ≤ s.cfg.srcCap) : msStepRun s =
    .ok [s.sPos] { s with
      mlen := (State.stepRuns s.sPos.toNat (min s.msMaxOff.toNat s.sPos.toNat) 1 s).mlen, sPos := s.sPos + 1 } := by
  have hnocap : ¬ s.cfg.srcCap ≤ s.sPos := by bv_omega
  rw [msStepRun, if_neg (by bv_omega), if_neg (fun h => hnocap h.1), State.stepRuns_frame]

/-- Settles O33: the loop's frame, and what it makes of the entries inside and outside its offsets. -/
theorem stepRunEffect : Obligations.StepRunEffect := by
  intro s hf hm
  rw [exec_msStepRun hf, if_pos hm]
  refine ⟨fun h => by rw [msStepRun_raised h], fun hlen hcap hwf => ?_⟩
  obtain ⟨_, _, _, _, hmlen⟩ := s.canonical_iff.mp hwf
  rw [msStepRun_ok hlen hcap]
  refine ⟨_, rfl, fun off run h1 hle hr => ?_, fun off h => ?_⟩
  · exact State.stepRuns_read_inside _ _ _ hmlen h1 (by omega) hr
  · exact State.stepRuns_read_outside _ _ _ _ (by omega)

end Sys2Proof.Machine
end

section
/-! PROOFS. The chains of the match scanner in `CHAIN` mode (42_scanner.md R183 to R190): that a scan job keeps them, which of its nodes a walk lists
with the skip-step and without, and what the listed pairs say of `SRC` (R196). -/

namespace Sys2Proof.Machine

-- No concurrency, as in the tests.
set_option Elab.async false

variable {s t : State} {i j : Word} {js : List Word}

/-! ## Chains (R183) -/

/-- Every node of a chain is an entry of `PREV`. -/
theorem State.isChain_lt_srcCap (h : s.isChain j js) : ∀ k ∈ js, k < s.cfg.srcCap := by
  induction js generalizing j with
  | nil => exact nofun
  | cons k r ih =>
    obtain ⟨_, _, hcap, hr⟩ := h
    exact List.forall_mem_cons.mpr ⟨hcap, ih hr⟩

/-- There is one chain from each entry. -/
theorem State.isChain_unique {ks : List Word} (h : s.isChain j js) (h' : s.isChain j ks) : js = ks := by
  induction js generalizing j ks with
  | nil =>
    cases ks with
    | nil => rfl
    | cons k ks =>
      obtain ⟨hk, hnil, _⟩ := h'
      exact absurd (hk.symm.trans h) hnil
  | cons k r ih =>
    obtain ⟨hk, hnil, _, hr⟩ := h
    cases ks with
    | nil => exact absurd (hk.symm.trans h') hnil
    | cons k' ks =>
      obtain ⟨hk', _, _, hr'⟩ := h'
      obtain rfl := hk.symm.trans hk'
      rw [ih hr hr']

/-- A chain is made of its own nodes' `PREV` entries, and of nothing else. -/
theorem State.isChain_congr (hcfg : t.cfg = s.cfg) (hprev : ∀ k ∈ js, t.prevEntry k.toNat = s.prevEntry k.toNat)
    (h : s.isChain j js) : t.isChain j js := by
  induction js generalizing j with
  | nil => exact Eq.trans h (congrArg Config.nil hcfg.symm)
  | cons k r ih =>
    obtain ⟨hk, hnil, hcap, hr⟩ := h
    obtain ⟨hk', hr'⟩ := List.forall_mem_cons.mp hprev
    refine ⟨hk, hcfg ▸ hnil, hcfg ▸ hcap, ?_⟩
    rw [hk']
    exact ih hr' hr

/-- A descending list of numbers below a bound is no longer than the bound. -/
theorem length_le_of_descending {bound : Word} (hd : js.Pairwise (· > ·)) (hb : ∀ k ∈ js, k < bound) :
    js.length ≤ bound.toNat := by
  induction js generalizing bound with
  | nil => exact Nat.zero_le _
  | cons k r ih =>
    obtain ⟨hk, hr⟩ := List.pairwise_cons.mp hd
    have hlen : r.length ≤ k.toNat := ih hr hk
    have hlt : k.toNat < bound.toNat := hb k (List.mem_cons_self ..)
    rw [List.length_cons]
    omega

/-! ## A scan job keeps its chains (R183, R184) -/

theorem State.clearFault_canonical (h : s.canonical = true) : s.clearFault.canonical = true := by
  cases hf : s.fault with
  | false => rwa [State.clearFault_of_not_fault hf]
  | true =>
    obtain ⟨hsrc, hout, _⟩ := s.canonical_iff.mp h
    rw [State.clearFault_of_fault hf]
    exact (State.canonical_iff _).mpr ⟨hsrc, hout, rfl, rfl, rfl⟩

theorem State.scanStart_canonical (h : s.canonical = true) : s.scanStart.canonical = true := by
  obtain ⟨hsrc, hout, _⟩ := s.canonical_iff.mp h
  refine (State.canonical_iff _).mpr ⟨hsrc, hout, ?_, rfl, ?_⟩
  all_goals
    simp only [State.scanStart]
    split <;> rfl

/-- The tables of a scan job that has inserted nothing: every chain is empty. -/
theorem State.scanStart_chainsOk (hm : s.msMode = 0) (hwf : s.canonical = true) (hnil : s.cfg.srcCap ≤ s.cfg.nil)
    (hlen : s.srcLen ≤ s.cfg.srcCap) : s.scanStart.chainsOk := by
  refine ⟨BitVec.le_def.mpr (Nat.zero_le _), hlen, hnil, State.scanStart_canonical hwf, fun key hkey => ⟨[], ?_, .nil, nofun⟩⟩
  have hread : s.scanStart.head.read key = some s.cfg.nil := by
    rw [State.scanStart_head_read, if_pos ⟨s.mode_eq_chain.mpr hm, hkey⟩]
  change s.scanStart.headEntry key = s.cfg.nil
  rw [State.headEntry, hread, Option.getD_some]

/-- The response is no part of the tables. -/
theorem State.chainsOk_answered (h : s.chainsOk) (ws : List Word) : (s.answered ws).chainsOk := by
  obtain ⟨hpos, hlen, hnil, hwf, hchains⟩ := h
  refine ⟨hpos, hlen, hnil, hwf, fun key hkey => ?_⟩
  obtain ⟨js, hjs, hd, hmem⟩ := hchains key hkey
  exact ⟨js, State.isChain_congr (s := s) rfl (fun _ _ => rfl) hjs, hd, hmem⟩

theorem State.inserted_headEntry_self (h : s.head.wf = true) :
    (s.inserted i).headEntry (s.keyAt i.toNat) = i := by
  rw [State.headEntry, State.inserted, Table.read_write_same _ _ h, Option.getD_some]

theorem State.inserted_headEntry_other {key : Nat} (h : key ≠ s.keyAt i.toNat) :
    (s.inserted i).headEntry key = s.headEntry key := by
  rw [State.headEntry, State.headEntry, State.inserted, Table.read_write_other _ _ h]

theorem State.inserted_prevEntry_self (h : s.prev.wf = true) :
    (s.inserted i).prevEntry i.toNat = s.headEntry (s.keyAt i.toNat) := by
  rw [State.prevEntry, State.inserted, Table.read_write_same _ _ h, Option.getD_some]

theorem State.inserted_prevEntry_other {a : Nat} (h : a ≠ i.toNat) :
    (s.inserted i).prevEntry a = s.prevEntry a := by
  rw [State.prevEntry, State.prevEntry, State.inserted, Table.read_write_other _ _ h]

theorem State.inserted_canonical (h : s.canonical = true) : (s.inserted i).canonical = true := by
  obtain ⟨hsrc, hout, hhead, hprev, hmlen⟩ := s.canonical_iff.mp h
  exact (State.canonical_iff _).mpr ⟨hsrc, hout, Table.wf_write _ _ hhead, Table.wf_write _ _ hprev, hmlen⟩

/-- An insertion keeps the chains: its key's chain gets `i` in front, and those of the other keys do not meet the entry written. -/
theorem State.inserted_chainsOk (h : s.chainsOk) (h0 : i ≠ 0) (hi : i < s.srcLen) (hpos : s.sPos ≤ i) :
    (s.inserted i).chainsOk := by
  obtain ⟨_, hlen, hnil, hwf, hchains⟩ := h
  obtain ⟨_, _, hhead, hprev, _⟩ := s.canonical_iff.mp hwf
  have hnext : (s.inserted i).sPos = i + 1 := rfl
  refine ⟨?_, hlen, hnil, State.inserted_canonical hwf, fun key hkey => ?_⟩
  · change i + 1 ≤ s.srcLen
    bv_omega
  obtain ⟨js, hjs, hd, hmem⟩ := hchains key hkey
  have hbelow : ∀ j ∈ js, j < i := fun j hj => by
    obtain ⟨_, hlt, _⟩ := hmem j hj
    bv_omega
  have hold : (s.inserted i).isChain (s.headEntry key) js :=
    State.isChain_congr (s := s) rfl
      (fun k hk => State.inserted_prevEntry_other (Nat.ne_of_lt (hbelow k hk))) hjs
  have hmem' : ∀ j ∈ js, 1 ≤ j ∧ j < i + 1 ∧ s.keyAt j.toNat = key := fun j hj => by
    obtain ⟨h1, _, hkj⟩ := hmem j hj
    have := hbelow j hj
    exact ⟨h1, by bv_omega, hkj⟩
  by_cases hk : key = s.keyAt i.toNat
  · subst hk
    refine ⟨i :: js, ?_, List.pairwise_cons.mpr ⟨hbelow, hd⟩, List.forall_mem_cons.mpr ⟨⟨?_, ?_, rfl⟩, hmem'⟩⟩
    · rw [State.inserted_headEntry_self hhead]
      refine ⟨rfl, ?_, ?_, by rwa [State.inserted_prevEntry_self hprev]⟩
      · change i ≠ s.cfg.nil
        bv_omega
      · change i < s.cfg.srcCap
        bv_omega
    · bv_omega
    · rw [hnext]
      bv_omega
  · exact ⟨js, by rwa [State.inserted_headEntry_other hk], hd, hmem'⟩

/-- Settles O28: an `MS_INIT` and an `MS_INSERT` that end without a fault are `scanStart` and `inserted`. -/
theorem chainsAreKept : Obligations.ChainsAreKept := by
  refine ⟨fun s t hwf hm hnil ht hf => ?_, fun s t i hs hm ht hf => ?_⟩
  · rw [exec_msInit, msInit_cases] at ht
    split at ht
    · cases ht
      exact absurd hf (by simp)
    split at ht
    · cases ht
      exact absurd hf (by simp)
    next hlen =>
      cases ht
      refine State.chainsOk_answered (State.scanStart_chainsOk ?_ (State.clearFault_canonical hwf) ?_ ?_) []
      · rwa [State.clearFault_msMode]
      · rwa [State.clearFault_cfg]
      · rw [State.clearFault_srcLen, State.clearFault_cfg]
        have hcap : s.inputLimit ≤ s.cfg.srcCap.toNat := Nat.min_le_left _ _
        exact BitVec.le_def.mpr (by omega)
  · cases hsf : s.fault with
    | true =>
      have hr : exec (.msInsert i) s = .next (s.answered []) := operation_faulted hsf
      rw [hr] at ht
      cases ht
      exact absurd hf (by simp [hsf])
    | false =>
      obtain ⟨_, hlen, _⟩ := id hs
      rw [exec_msInsert hsf, if_pos hm] at ht
      by_cases hi : i = 0 ∨ s.srcLen ≤ i ∨ i < s.sPos
      · rw [msInsert_raised hi] at ht
        cases ht
        exact absurd hf (by simp)
      · have h0 : i ≠ 0 := fun h => hi (.inl h)
        have hil : i < s.srcLen := BitVec.not_le.mp fun h => hi (.inr (.inl h))
        have hip : s.sPos ≤ i := BitVec.not_lt.mp fun h => hi (.inr (.inr h))
        rw [msInsert_ok h0 hil hip hlen] at ht
        cases ht
        exact State.chainsOk_answered (State.inserted_chainsOk hs h0 hil hip) []

/-! ## The successor of a node (R190) -/

/-- The skip-step is off: a walk visits every node. -/
def State.skipOff (s : State) : Prop := s.codec ≠ 3 ∨ s.opt.getLsbD 6 = false

theorem State.jobCodec_eq_dan1 (s : State) : s.jobCodec = .dan1 ↔ s.codec = 3 :=
  (by decide : ∀ c : BitVec 3, codecOf c = .dan1 ↔ c = 3) s.codec

theorem State.prevOf_ok (h : j < s.cfg.srcCap) : s.prevOf j = .ok (s.prevEntry j.toNat) := if_pos h

/-- Skipping `n` nodes of a chain leaves the rest of it. -/
theorem State.skipNodes_of_isChain (n : Nat) (h : s.isChain j js) :
    ∃ j', s.skipNodes n j = .ok j' ∧ s.isChain j' (js.drop n) := by
  induction n generalizing j js with
  | zero => exact ⟨j, rfl, h⟩
  | succ n ih =>
    cases js with
    | nil => exact ⟨j, if_pos h, h⟩
    | cons k r =>
      obtain ⟨rfl, hnil, hcap, hr⟩ := h
      obtain ⟨j', hj', hc⟩ := ih hr
      exact ⟨j', by rw [State.skipNodes, if_neg hnil, State.prevOf_ok hcap]; exact hj', hc⟩

/-- The next node is one of the older nodes or the end of the chain; without the skip-step it is the first of them. -/
theorem State.nextNode_of_isChain (best : Nat) (h : s.isChain j (j :: js)) :
    ∃ j' ks, s.nextNode j best = .ok j' ∧ s.isChain j' ks ∧ ks <:+ js ∧ (s.skipOff → ks = js) := by
  obtain ⟨_, _, hcap, hr⟩ := id h
  simp only [State.nextNode, State.prevOf_ok hcap, State.optDan1Skip, State.jobCodec_eq_dan1]
  split
  · next hskip =>
    obtain ⟨hopt, hcodec, hbest, _⟩ := hskip
    obtain ⟨n, rfl⟩ := Nat.exists_eq_succ_of_ne_zero (Nat.ne_of_gt (Nat.zero_lt_of_lt hbest))
    obtain ⟨j', hj', hc⟩ := State.skipNodes_of_isChain (n + 1) h
    refine ⟨j', js.drop n, hj', hc, List.drop_suffix n js, fun hoff => ?_⟩
    obtain hoff | hoff := hoff
    · exact absurd hcodec hoff
    · exact absurd (hoff.symm.trans hopt) Bool.false_ne_true
  · exact ⟨_, js, rfl, hr, List.suffix_refl js, fun _ => rfl⟩

/-! ## What a walk lists (R185) -/

/-- The pair a walk from `i` lists for node `j`. -/
def State.candidate (s : State) (i j : Word) : Nat × Nat := (i.toNat - j.toNat, s.backExtent i.toNat j.toNat)

/-- The nodes of a chain below `i`, up to the first that is too far. -/
def State.nodesInRange (s : State) (i : Word) (js : List Word) : List Word :=
  (js.filter fun j => j < i).takeWhile fun j => i.toNat - j.toNat ≤ s.msMaxOff.toNat

theorem State.nodesInRange_above {k : Word} (h : ¬ k < i) : s.nodesInRange i (k :: js) = s.nodesInRange i js := by
  rw [State.nodesInRange, List.filter_cons, if_neg (by simpa using h)]
  rfl

theorem State.nodesInRange_far {k : Word} (h : k < i) (hfar : s.msMaxOff.toNat < i.toNat - k.toNat) :
    s.nodesInRange i (k :: js) = [] := by
  rw [State.nodesInRange, List.filter_cons, if_pos (by simpa using h), List.takeWhile_cons,
    if_neg (by simpa only [decide_eq_true_eq, Nat.not_le] using hfar)]

theorem State.nodesInRange_near {k : Word} (h : k < i) (hnear : i.toNat - k.toNat ≤ s.msMaxOff.toNat) :
    s.nodesInRange i (k :: js) = k :: s.nodesInRange i js := by
  rw [State.nodesInRange, List.filter_cons, if_pos (by simpa using h), List.takeWhile_cons,
    if_pos (by simpa using hnear)]
  rfl

/-- `ks` are nodes a walk from `i` along `js` may list: some of the chain's, in its order, below `i` and in range; without the skip-step all of them
up to the first too far. -/
structure State.Listed (s : State) (i : Word) (js ks : List Word) : Prop where
  sublist : ks.Sublist js
  below : ∀ k ∈ ks, k < i
  inRange : ∀ k ∈ ks, i.toNat - k.toNat ≤ s.msMaxOff.toNat
  all : s.skipOff → ks = s.nodesInRange i js

theorem State.Listed.nil (h : s.nodesInRange i js = []) : s.Listed i js [] :=
  ⟨List.nil_sublist js, nofun, nofun, fun _ => h.symm⟩

/-- A node passed over. -/
theorem State.Listed.pass {k : Word} {ks r : List Word} (hk : ¬ k < i) (hr : r <:+ js) (hoff : s.skipOff → r = js)
    (h : s.Listed i r ks) : s.Listed i (k :: js) ks :=
  ⟨(h.sublist.trans hr.sublist).cons k, h.below, h.inRange, fun ho => by
    rw [State.nodesInRange_above hk, h.all ho, hoff ho]⟩

/-- A node listed. -/
theorem State.Listed.take {k : Word} {ks r : List Word} (hk : k < i) (hnear : i.toNat - k.toNat ≤ s.msMaxOff.toNat)
    (hr : r <:+ js) (hoff : s.skipOff → r = js) (h : s.Listed i r ks) : s.Listed i (k :: js) (k :: ks) :=
  ⟨(h.sublist.trans hr.sublist).cons_cons k, List.forall_mem_cons.mpr ⟨hk, h.below⟩,
    List.forall_mem_cons.mpr ⟨hnear, h.inRange⟩, fun ho => by
    rw [State.nodesInRange_near hk hnear, h.all ho, hoff ho]⟩

/-- The loop of R185 along a chain shorter than its bound. -/
theorem State.walk_of_isChain (i : Word) {n best : Nat} (hc : s.isChain j js) (hn : js.length < n) :
    ∃ ks, s.walk i.toNat n j best = .ok (pairWords (ks.map (s.candidate i))) ∧ s.Listed i js ks := by
  induction n generalizing j js best with
  | zero => exact absurd hn (Nat.not_lt_zero _)
  | succ n ih =>
    cases js with
    | nil => exact ⟨[], if_pos hc, .nil rfl⟩
    | cons k r =>
      obtain ⟨rfl, hnil, _⟩ := id hc
      rw [List.length_cons] at hn
      have rest (best : Nat) : ∃ j' r' ks, s.nextNode j best = .ok j' ∧ r' <:+ r ∧ (s.skipOff → r' = r) ∧
          s.walk i.toNat n j' best = .ok (pairWords (ks.map (s.candidate i))) ∧ s.Listed i r' ks := by
        obtain ⟨j', r', hj', hc', hr', hoff⟩ := State.nextNode_of_isChain best hc
        have hlen := hr'.length_le
        obtain ⟨ks, hks, hl⟩ := ih (best := best) hc' (by omega)
        exact ⟨j', r', ks, hj', hr', hoff, hks, hl⟩
      rw [State.walk, if_neg hnil]
      by_cases hk : j < i
      · rw [if_pos (show j.toNat < i.toNat from hk)]
        by_cases hfar : s.msMaxOff.toNat < i.toNat - j.toNat
        · exact ⟨[], if_pos hfar, .nil (State.nodesInRange_far hk hfar)⟩
        · obtain ⟨j', r', ks, hj', hr', hoff, hks, hl⟩ := rest (max best (s.backExtent i.toNat j.toNat))
          refine ⟨j :: ks, ?_, hl.take hk (Nat.not_lt.mp hfar) hr' hoff⟩
          simp only [if_neg hfar, s.extentBack_eq, hj', hks]
          rfl
      · obtain ⟨j', r', ks, hj', hr', hoff, hks, hl⟩ := rest best
        refine ⟨ks, ?_, hl.pass hk hr' hoff⟩
        rw [if_neg (show ¬ j.toNat < i.toNat from hk), hj']
        exact hks

theorem msWalk_raised (h : i = 0 ∨ s.srcLen ≤ i) : msWalk i s = .raised .malformedToken s :=
  if_pos (h.imp_left (by bv_omega))

/-- `MS_WALK(i)` along a descending chain completes, and changes nothing but the response. -/
theorem exec_msWalk_of_isChain (hf : s.fault = false) (hm : s.msMode = 0) (h0 : i ≠ 0) (hi : i < s.srcLen)
    (hcap : s.srcLen ≤ s.cfg.srcCap) (hc : s.isChain (s.headEntry (s.keyAt i.toNat)) js) (hd : js.Pairwise (· > ·)) :
    ∃ ks, exec (.msWalk i) s = .next (s.answered (pairWords (ks.map (s.candidate i)))) ∧ s.Listed i js ks := by
  have hlen : js.length ≤ s.cfg.srcCap.toNat := length_le_of_descending hd (State.isChain_lt_srcCap hc)
  obtain ⟨ks, hks, hl⟩ := State.walk_of_isChain i (best := 0) hc (Nat.lt_succ_of_le hlen)
  refine ⟨ks, ?_, hl⟩
  rw [exec_msWalk hf, if_pos hm, msWalk, if_neg (by bv_omega), if_neg (by bv_omega), hks, finish_ok]

/-- Settles O29: the nodes listed without the skip-step are those in range. -/
theorem walkResult : Obligations.WalkResult := by
  intro s i hf hm
  refine ⟨fun h => by rw [exec_msWalk hf, if_pos hm, msWalk_raised h], fun js h0 hi hcap hoff hc hd => ?_⟩
  rw [← s.keyAt_eq] at hc
  obtain ⟨ks, hks, hl⟩ := exec_msWalk_of_isChain hf hm h0 hi hcap hc hd
  rw [hks, hl.all hoff]
  rfl

/-! ## What the pairs say of `SRC` (R196) -/

/-- On the tables of a scan job: the chain of `i`'s key, and the walk along it. -/
theorem exec_msWalk_of_chainsOk (hs : s.chainsOk) (hf : s.fault = false) (hm : s.msMode = 0) (h0 : i ≠ 0)
    (hi : i < s.srcLen) : ∃ js ks, s.isChain (s.headEntry (s.keyAt i.toNat)) js ∧ js.Pairwise (· > ·) ∧
      (∀ j ∈ js, 1 ≤ j ∧ s.keyAt j.toNat = s.keyAt i.toNat) ∧
      exec (.msWalk i) s = .next (s.answered (pairWords (ks.map (s.candidate i)))) ∧ s.Listed i js ks := by
  obtain ⟨_, hcap, _, _, hchains⟩ := hs
  obtain ⟨js, hc, hd, hmem⟩ := hchains _ (s.keyAt_lt i.toNat)
  obtain ⟨ks, hks, hl⟩ := exec_msWalk_of_isChain hf hm h0 hi hcap hc hd
  refine ⟨js, ks, hc, hd, fun j hj => ?_, hks, hl⟩
  obtain ⟨h1, _, hk⟩ := hmem j hj
  exact ⟨h1, hk⟩

/-- A true match of maximal extent (R196), for a pair of offset and extent at position `i`. -/
def State.maximalMatch (s : State) (i : Word) (p : Nat × Nat) : Prop :=
  1 ≤ p.1 ∧ p.1 ≤ min s.msMaxOff.toNat i.toNat ∧
    1 ≤ p.2 ∧ p.2 ≤ min s.msMaxLen.toNat (i.toNat - p.1 + 1) ∧
    (∀ k, k < p.2 → s.srcByte (i.toNat - k) = s.srcByte (i.toNat - p.1 - k)) ∧
    (p.2 < min s.msMaxLen.toNat (i.toNat - p.1 + 1) →
      s.srcByte (i.toNat - p.2) ≠ s.srcByte (i.toNat - p.1 - p.2))

/-- The pair listed for an older position of the same key is one. -/
theorem State.candidate_maximalMatch (hlen : s.msMaxLen ≠ 0) (hj : j < i)
    (hoff : i.toNat - j.toNat ≤ s.msMaxOff.toNat) (hk : s.keyAt j.toNat = s.keyAt i.toNat) :
    s.maximalMatch i (s.candidate i j) := by
  have hlt : j.toNat < i.toNat := hj
  have hback : i.toNat - (i.toNat - j.toNat) = j.toNat := by omega
  have hbytes : s.srcByte i.toNat = s.srcByte j.toNat := ((s.keyAt_eq_keyAt _ _).mp hk).2.symm
  have hbound : 0 < min s.msMaxLen.toNat (j.toNat + 1) := by bv_omega
  simp only [State.maximalMatch, State.candidate, hback]
  refine ⟨by omega, by omega, ?_, ?_, fun k hk => ?_, fun hlt => ?_⟩
  · exact extentOf_pos hbound (by simpa using hbytes)
  · exact extentOf_le
  · exact of_decide_eq_true (same_of_lt_extentOf hk)
  · exact of_decide_eq_false (not_same_extentOf hlt)

/-- Settles O30: the nodes listed descend, so the offsets ascend, and each has the key of `i`. -/
theorem walkSoundness : Obligations.WalkSoundness := by
  intro s i hs hf hm hlen h0 hi
  obtain ⟨js, ks, _, hd, hmem, hks, hl⟩ := exec_msWalk_of_chainsOk hs hf hm h0 hi
  refine ⟨_, hks, ?_, fun p hp => ?_⟩
  · refine List.pairwise_map.mpr ((hd.sublist hl.sublist).imp_of_mem fun {a b} ha _ hab => ?_)
    have hai : a.toNat < i.toNat := hl.below a ha
    have hba : b.toNat < a.toNat := hab
    simp only [State.candidate]
    omega
  · obtain ⟨j, hj, rfl⟩ := List.mem_map.mp hp
    obtain ⟨_, hk⟩ := hmem j (hl.sublist.subset hj)
    exact State.candidate_maximalMatch hlen (hl.below j hj) (hl.inRange j hj) hk

/-- On a descending chain no node behind one that is too far is in range. -/
theorem State.mem_nodesInRange (hd : js.Pairwise (· > ·)) : j ∈ s.nodesInRange i js ↔
    j ∈ js ∧ j < i ∧ i.toNat - j.toNat ≤ s.msMaxOff.toNat := by
  induction js with
  | nil => simp [State.nodesInRange]
  | cons k r ih =>
    obtain ⟨hkr, hr⟩ := List.pairwise_cons.mp hd
    have ih := ih hr
    by_cases hk : k < i
    · by_cases hfar : s.msMaxOff.toNat < i.toNat - k.toNat
      · rw [State.nodesInRange_far hk hfar]
        refine ⟨nofun, fun ⟨hj, _, hnear⟩ => ?_⟩
        obtain rfl | hj := List.mem_cons.mp hj
        · omega
        · have hjk : j.toNat < k.toNat := hkr j hj
          omega
      · rw [State.nodesInRange_near hk (Nat.not_lt.mp hfar), List.mem_cons, List.mem_cons, ih]
        constructor
        · rintro (rfl | ⟨hj, hrest⟩)
          · exact ⟨.inl rfl, hk, Nat.not_lt.mp hfar⟩
          · exact ⟨.inr hj, hrest⟩
        · rintro ⟨rfl | hj, hrest⟩
          · exact .inl rfl
          · exact .inr ⟨hj, hrest⟩
    · rw [State.nodesInRange_above hk, List.mem_cons, ih]
      refine ⟨fun ⟨hj, hrest⟩ => ⟨.inr hj, hrest⟩, fun ⟨hj, hrest⟩ => ⟨?_, hrest⟩⟩
      obtain rfl | hj := hj
      · exact absurd hrest.1 hk
      · exact hj

theorem State.exists_candidate_offset (o : Nat) :
    (∃ l, (o, l) ∈ js.map (s.candidate i)) ↔ ∃ j ∈ js, i.toNat - j.toNat = o := by
  simp [State.candidate]

/-- Settles O31: a node in range is an offset whose two bytes match, and the chain holds every position with the key. -/
theorem walkCompleteness : Obligations.WalkCompleteness := by
  intro s i js hs hf hm h0 hi hoff hc hevery
  obtain ⟨js', ks, hc', hd, hmem, hks, hl⟩ := exec_msWalk_of_chainsOk hs hf hm h0 hi
  obtain rfl := State.isChain_unique hc hc'
  refine ⟨_, hks, fun o => ?_⟩
  rw [State.exists_candidate_offset, hl.all hoff]
  simp only [State.mem_nodesInRange hd]
  constructor
  · rintro ⟨j, ⟨hj, hlt, hnear⟩, rfl⟩
    obtain ⟨h1, hk⟩ := hmem j hj
    have hlt' : j.toNat < i.toNat := hlt
    have h1' : 1 ≤ j.toNat := h1
    obtain ⟨hfirst, hsecond⟩ := (s.keyAt_eq_keyAt _ _).mp hk.symm
    have hback : i.toNat - (i.toNat - j.toNat) = j.toNat := by omega
    rw [hback]
    exact ⟨by omega, by omega, hfirst, hsecond⟩
  · rintro ⟨ho, hmax, hfirst, hsecond⟩
    have hio : i.toNat - o < 2 ^ 32 := Nat.lt_of_le_of_lt (Nat.sub_le _ _) i.isLt
    obtain ⟨j, hj⟩ : ∃ j : Word, j.toNat = i.toNat - o := ⟨BitVec.ofNatLT _ hio, rfl⟩
    have hlt : j < i := BitVec.lt_def.mpr (by omega)
    have h1 : 1 ≤ j := by bv_omega
    have hk : s.keyAt j.toNat = s.keyAt i.toNat := by
      rw [hj]
      exact (s.keyAt_eq_keyAt _ _).mpr ⟨hfirst.symm, hsecond.symm⟩
    exact ⟨j, ⟨hevery j h1 hlt hk, hlt, by omega⟩, by omega⟩

end Sys2Proof.Machine
end

section
/-! PROOFS. Where a reader of the stream ends (43_decoder_common.md R211). An operation is described by two predicates: `q` holds of the state it completes in, `p` of the state it raises in.
For an invariant the two are the same; for a measure of the stream, `q` says that it has decreased and `p` that it has not increased. -/

namespace Sys2Proof

-- No concurrency, as in the tests.
set_option Elab.async false

variable {σ φ α β : Type}

/-- The operation completes only in states with `q` and raises only in states with `p`. -/
def Res.EndsIn (q p : σ → Prop) : Res σ φ α → Prop
  | .ok _ s => q s
  | .raised _ s => p s
  | .stuck _ => True

section Ends
variable {q q' p p' : σ → Prop}

theorem Res.EndsIn.mono {r : Res σ φ α} (h : r.EndsIn q p) (hq : ∀ s, q s → q' s) (hp : ∀ s, p s → p' s) :
    r.EndsIn q' p' := by
  cases r with
  | ok a s => exact hq s h
  | raised k s => exact hp s h
  | stuck e => trivial

/-- Sequencing, where the second part may use how the first one has ended. -/
theorem Res.EndsIn.bind_of_eq {r : Res σ φ α} {f : α → σ → Res σ φ β} (h : r.EndsIn q' p)
    (hf : ∀ a s, r = .ok a s → q' s → (f a s).EndsIn q p) : (r.bind f).EndsIn q p := by
  cases r with
  | ok a s => exact hf a s rfl h
  | raised k s => exact h
  | stuck e => trivial

theorem Res.EndsIn.bind {r : Res σ φ α} {f : α → σ → Res σ φ β} (h : r.EndsIn q' p)
    (hf : ∀ a s, q' s → (f a s).EndsIn q p) : (r.bind f).EndsIn q p :=
  h.bind_of_eq fun a s _ => hf a s

theorem Res.EndsIn.map {r : Res σ φ α} (f : α → β) (h : r.EndsIn q p) : (r.map f).EndsIn q p :=
  h.bind fun _ _ hs => hs

theorem Res.EndsIn.ite {c : Prop} [Decidable c] {r r' : Res σ φ α} (h : c → r.EndsIn q p) (h' : ¬ c → r'.EndsIn q p) :
    (if c then r else r').EndsIn q p := by
  by_cases hc : c
  · rw [if_pos hc]; exact h hc
  · rw [if_neg hc]; exact h' hc

end Ends

/-! ## What every reader of a stream keeps

The readers of Decode.lean reach the state through their port alone, so whatever a bit and a byte of the port lead to, every
code and every token leads to. -/

/-- Reading a bit or a byte from a state with `p` leads to one with `q`, which is at least as good as `p`. -/
structure Port.Advances (P : Port σ φ) (p q : σ → Prop) : Prop where
  bit : ∀ {s}, p s → (P.bit s).EndsIn q p
  byte : ∀ {s}, p s → (P.byte s).EndsIn q p
  one : ∀ {s}, q s → q (P.one s)
  weaken : ∀ {s}, q s → p s

namespace Port.Advances
variable {P : Port σ φ} {p q : σ → Prop} (h : P.Advances p q)
include h

/-! ### Fields and gamma codes -/

theorem readBitsInto (n : Nat) (v : Word) {s : σ} (hs : q s) : (readBitsInto P n v s).EndsIn q p := by
  induction n generalizing v s with
  | zero => exact hs
  | succ n ih => exact (h.bit (h.weaken hs)).bind fun b s hs => ih (shiftIn v b) hs

theorem readField (n : Nat) {s : σ} (hs : q s) : (readField P n s).EndsIn q p := h.readBitsInto n 0 hs

/-- A field of at least one bit moves the reader. -/
theorem readField_succ (n : Nat) {s : σ} (hs : p s) : (Sys2Proof.readField P (n + 1) s).EndsIn q p :=
  (h.bit hs).bind fun b _ hs => h.readBitsInto n (shiftIn 0 b) hs

theorem readWide (split : WideSplit) (n : Nat) {s : σ} (hs : q s) : (readWide P split n s).EndsIn q p := by
  cases split with
  | bitsThenByte => exact (h.readField n hs).bind fun _ _ hs => (h.byte (h.weaken hs)).bind fun _ _ hs => hs

theorem fitting (cfg : Config) (v : Word) {s : σ} (hs : q s) : (fitting cfg v s : Res σ φ Word).EndsIn q p :=
  .ite (fun _ => h.weaken hs) fun _ => hs

theorem egZeros (left k : Nat) {s : σ} (hs : q s) : (egZeros P left k s).EndsIn q p := by
  induction left generalizing k s with
  | zero => exact hs
  | succ left ih =>
    exact (h.bit (h.weaken hs)).bind fun b s hs => .ite (fun _ => hs) fun _ => ih (k + 1) hs

theorem egReadCode (cfg : Config) (limit : Nat) {s : σ} (hs : q s) : (egReadCode P cfg limit s).EndsIn q p := by
  refine .ite (fun _ => h.weaken hs) fun _ => (h.egZeros _ 0 hs).bind fun k s hs => ?_
  cases k with
  | none => exact hs
  | some k => exact (h.readBitsInto k 1 hs).bind fun v s hs => (h.fitting cfg v hs).map some

theorem igLoop (width : Nat) (cont inverted : Bool) (sentinel : Word) (n : Nat) (value : Word) {s : σ} (hs : p s) :
    (igLoop P width cont inverted sentinel n value s).EndsIn q p := by
  induction n generalizing value s with
  | zero => exact hs
  | succ n ih =>
    refine (h.bit hs).bind fun t s hs => .ite (fun _ => hs) fun _ => .ite (fun _ => h.weaken hs) fun _ => ?_
    exact (h.bit (h.weaken hs)).bind fun b s hs => .ite (fun _ => hs) fun _ => ih _ (h.weaken hs)

theorem igReadCode (cfg : Config) (sentinel : Word) (inverted backwards : Bool) {s : σ} (hs : p s) :
    (igReadCode P cfg sentinel inverted backwards s).EndsIn q p :=
  h.igLoop _ _ _ _ _ _ hs

theorem bbgOnes (left k : Nat) {s : σ} (hs : q s) : (bbgOnes P left k s).EndsIn q p := by
  induction left generalizing k s with
  | zero => exact hs
  | succ left ih =>
    exact (h.bit (h.weaken hs)).bind fun b s hs => .ite (fun _ => ih (k + 1) hs) fun _ => hs

theorem bbgReadCode (cfg : Config) {s : σ} (hs : q s) : (bbgReadCode P cfg s).EndsIn q p := by
  refine (h.bbgOnes _ 0 hs).bind fun k s hs => ?_
  cases k with
  | none => exact hs
  | some k => exact (h.readBitsInto k 1 hs).bind fun m s hs => (h.fitting cfg (m - 1) hs).map some

/-! ### Tokens -/

/-- A byte that is all there is to read, wrapped in a constructor. -/
theorem byte_then (f : Byte → α) {s : σ} (hs : p s) : ((P.byte s).bind fun v s => (.ok (f v) s : Res σ φ α)).EndsIn q p :=
  (h.byte hs).bind fun _ _ hs => hs

/-- A field wrapped in a constructor. -/
theorem field_then (n : Nat) (f : Word → α) {s : σ} (hs : q s) :
    ((Sys2Proof.readField P n s).bind fun v s => (.ok (f v) s : Res σ φ α)).EndsIn q p :=
  (h.readField n hs).bind fun _ _ hs => hs

theorem decodeMdk {s : σ} (hs : p s) : (decodeMdk P s).EndsIn q p :=
  (h.byte hs).bind fun _ _ hs => .ite (fun _ => hs) fun _ => .ite (fun _ => hs) fun _ => h.byte_then _ (h.weaken hs)

theorem decodeLzf {s : σ} (hs : p s) : (decodeLzf P s).EndsIn q p := by
  refine (h.byte hs).bind fun b s hs => .ite (fun _ => hs) fun _ => .ite (fun _ => hs) fun _ => .ite (fun _ => ?_) fun _ => ?_
  · exact (h.byte (h.weaken hs)).bind fun _ _ hs => h.byte_then _ (h.weaken hs)
  · exact h.byte_then _ (h.weaken hs)

theorem decodePlt (c : DecodeCtx) {s : σ} (hs : p s) : (decodePlt P c s).EndsIn q p := by
  refine (h.bit hs).bind fun t s hs => .ite (fun _ => h.byte_then _ (h.weaken hs)) fun _ => ?_
  refine (h.igReadCode c.cfg c.sentinel false false (h.weaken hs)).bind fun g s hs => ?_
  cases g with
  | none => exact hs
  | some g => exact (h.byte (h.weaken hs)).bind fun bo s hs => .ite (fun _ => hs) fun _ => h.field_then _ _ hs

theorem dan1Near (far : Bool) {s : σ} (hs : q s) : (dan1Near P far s).EndsIn q p :=
  (h.bit (h.weaken hs)).bind fun _ _ hs => .ite (fun _ => h.field_then _ _ hs) fun _ => h.field_then _ _ hs

theorem dan1Mid (far : Bool) (len : Word) {s : σ} (hs : q s) : (dan1Mid P far len s).EndsIn q p :=
  .ite (fun _ => (h.bit (h.weaken hs)).bind fun _ _ hs =>
    .ite (fun _ => h.byte_then _ (h.weaken hs)) fun _ => h.dan1Near far hs) fun _ => h.dan1Near far hs

theorem dan1OffsetRead (cfg : Config) (len : Word) {s : σ} (hs : q s) : (dan1OffsetRead P cfg len s).EndsIn q p := by
  refine .ite (fun _ => ?_) fun _ => h.dan1Mid _ _ hs
  refine (h.bit (h.weaken hs)).bind fun b s hs => .ite (fun _ => ?_) fun _ => h.dan1Mid _ _ hs
  exact (h.readWide _ _ hs).bind fun _ _ hs => hs

/-- What DAN1 and DAN3 read behind a code that is cut off at its limit: the RAW block's count, or END. -/
theorem rawOrEnd (f : Byte → Instr) (i : Instr) {s : σ} (hs : q s) :
    ((P.bit s).bind fun u s =>
      if u then (P.byte s).bind fun n s => .ok (f n) s else (.ok i s : Res σ φ Instr)).EndsIn q p :=
  (h.bit (h.weaken hs)).bind fun _ _ hs => .ite (fun _ => h.byte_then _ (h.weaken hs)) fun _ => hs

theorem decodeDan1 (c : DecodeCtx) {s : σ} (hs : p s) : (decodeDan1 P c s).EndsIn q p := by
  refine (h.bit hs).bind fun t s hs => .ite (fun _ => h.byte_then _ (h.weaken hs)) fun _ => ?_
  refine (h.egReadCode c.cfg _ hs).bind fun g s hs => ?_
  cases g with
  | none => exact h.rawOrEnd _ _ hs
  | some g => exact (h.dan1OffsetRead c.cfg g hs).bind fun _ _ hs => hs

theorem subsetRead (left : Nat) {s : σ} (hs : p s) : (subsetRead P left s).EndsIn q p := by
  induction left generalizing s with
  | zero => exact (h.bit hs).bind fun b s hs => .ite (fun _ => h.weaken hs) fun _ => hs
  | succ left ih =>
    exact (h.bit hs).bind fun b s hs => .ite (fun _ => ih (h.weaken (h.one hs))) fun _ => hs

theorem tierRead (d : Dan3Prefix) (n : Nat) (bits : List Bool) {s : σ} (hs : q s) :
    (tierRead P d n bits s).EndsIn q p := by
  induction n generalizing bits s with
  | zero => exact h.weaken hs
  | succ n ih =>
    refine (h.bit (h.weaken hs)).bind fun b s hs => ?_
    cases d.tierOf (bits ++ [b]) with
    | some t => exact hs
    | none => exact ih _ hs

theorem dan3OffsetRead (c : DecodeCtx) {s : σ} (hs : q s) : (dan3OffsetRead P c s).EndsIn q p := by
  refine (h.tierRead _ _ _ hs).bind fun t s hs => ?_
  cases t with
  | b => exact h.byte_then _ (h.weaken hs)
  | a => exact h.field_then _ _ hs
  | c => exact (h.readWide _ _ hs).bind fun _ _ hs => hs

theorem dan3Offset1Read {s : σ} (hs : q s) : (dan3Offset1Read P s).EndsIn q p :=
  (h.bit (h.weaken hs)).bind fun _ _ hs => .ite (fun _ => h.field_then _ _ hs) fun _ => hs

theorem decodeDan3 (c : DecodeCtx) {s : σ} (hs : p s) : (decodeDan3 P c s).EndsIn q p := by
  refine (h.bit hs).bind fun t s hs => .ite (fun _ => h.byte_then _ (h.weaken hs)) fun _ => ?_
  refine (h.egReadCode c.cfg _ hs).bind fun g s hs => ?_
  cases g with
  | none => exact h.rawOrEnd _ _ hs
  | some g =>
    exact Res.EndsIn.bind (.ite (fun _ => h.dan3Offset1Read hs) fun _ => h.dan3OffsetRead c hs) fun _ _ hs => hs

theorem decodeZx7 (c : DecodeCtx) {s : σ} (hs : p s) : (decodeZx7 P c s).EndsIn q p := by
  refine (h.bit hs).bind fun t s hs => .ite (fun _ => h.byte_then _ (h.weaken hs)) fun _ => ?_
  refine (h.egReadCode c.cfg _ hs).bind fun g s hs => ?_
  cases g with
  | none => exact (h.bit (h.weaken hs)).bind fun u s hs => .ite (fun _ => hs) fun _ => h.weaken hs
  | some g => exact (h.byte (h.weaken hs)).bind fun bo s hs => .ite (fun _ => hs) fun _ => h.field_then _ _ hs

theorem decodeZx0New (c : DecodeCtx) {s : σ} (hs : p s) : (decodeZx0New P c s).EndsIn q p := by
  refine (h.igReadCode c.cfg 0 c.inv c.bw hs).bind fun m s hs => ?_
  cases m with
  | none => exact h.weaken hs
  | some m =>
    exact .ite (fun _ => hs) fun _ => .ite (fun _ => h.weaken hs) fun _ => h.byte_then _ (h.weaken hs)

theorem zx0LengthRead (c : DecodeCtx) {s : σ} (hs : p s) : (zx0LengthRead P c s).EndsIn q p := by
  refine (h.igReadCode c.cfg 0 false c.bw hs).bind fun n s hs => ?_
  cases n with
  | none => exact h.weaken hs
  | some n => exact hs

theorem decodeBbLen {s : σ} (hs : p s) : (decodeBbLen P s).EndsIn q p :=
  (h.byte hs).bind fun _ _ hs => (h.byte (h.weaken hs)).bind fun _ _ hs =>
    (h.byte (h.weaken hs)).bind fun _ _ hs => h.byte_then _ (h.weaken hs)

theorem decodeBbGamma (c : DecodeCtx) (d : Byte) (hi : BitVec 4) {s : σ} (hs : q s) :
    (decodeBbGamma P c d hi s).EndsIn q p := by
  refine (h.bbgReadCode c.cfg hs).bind fun g s hs => ?_
  cases g with
  | none => exact .ite (fun _ => hs) fun _ => h.weaken hs
  | some g => exact hs

theorem decodeBb (c : DecodeCtx) {s : σ} (hs : p s) : (decodeBb P c s).EndsIn q p := by
  refine (h.bit hs).bind fun t s hs => .ite (fun _ => h.byte_then _ (h.weaken hs)) fun _ => ?_
  refine (h.byte (h.weaken hs)).bind fun d s hs => .ite (fun _ => h.decodeBbGamma c d 0 hs) fun _ => ?_
  exact (h.readField 4 hs).bind fun hi s hs => h.decodeBbGamma c d _ hs

/-- Fetching any element moves the reader: each begins with a bit or a byte. -/
theorem decodeElement (c : DecodeCtx) (e : Element) {s : σ} (hs : p s) : (decodeElement P c e s).EndsIn q p := by
  cases e with
  | mdkToken => exact h.decodeMdk hs
  | lzfToken => exact h.decodeLzf hs
  | pltQ => exact (h.readField_succ 2 hs).bind fun _ _ hs => hs
  | pltToken => exact h.decodePlt c hs
  | dan1Token => exact h.decodeDan1 c hs
  | dan3Subset => exact (h.subsetRead 7 hs).bind fun _ _ hs => hs
  | dan3Token => exact h.decodeDan3 c hs
  | zx7Token => exact h.decodeZx7 c hs
  | zx0Lits => exact (h.zx0LengthRead c hs).bind fun _ _ hs => hs
  | zx0Rep => exact (h.zx0LengthRead c hs).bind fun _ _ hs => hs
  | zx0New => exact h.decodeZx0New c hs
  | bbLen => exact h.decodeBbLen hs
  | bbToken => exact h.decodeBb c hs
  | pltFirst | dan1First | dan3First | zx7First => exact h.byte_then _ hs

end Port.Advances

end Sys2Proof
end

section
/-! PROOFS. The registers as the host reads and writes them (10_state.md R29, R35, 30_encoding.md R91). -/

namespace Sys2Proof.Machine

-- No concurrency, as in the tests.
set_option Elab.async false

/-- `STATUS` as a sum of its fields (10_state.md R35). -/
theorem State.status_toNat (s : State) :
    s.status.toNat = (dStateCode s.dState).toNat + (if s.dState = .done then 8 else 0) +
      (if s.fault then 16 else 0) + 256 * s.err.toNat := by
  have hs := (dStateCode s.dState).isLt
  have he := s.err.isLt
  have hd : s.doneFlag.toNat = if s.dState = .done then 1 else 0 := by
    by_cases h : s.dState = .done <;> simp [State.doneFlag, h]
  have hf : s.fault.toNat = if s.fault then 1 else 0 := by cases s.fault <;> rfl
  have hz : (0 : BitVec 3).toNat = 0 := rfl
  simp only [State.status, BitVec.toNat_setWidth, toNat_append_eq_add, BitVec.toNat_ofBool, hd, hf, hz]
  split <;> split <;> omega

/-- A number that names no register reads 0. -/
theorem State.reg_of_gt (s : State) {n : Word} (h : 11 < n) : s.reg n = 0 := by
  have hn : 11 < n.toNat := h
  unfold State.reg
  split
  case h_13 => rfl
  all_goals omega

/-- A host write, as one update of all writable registers. -/
theorem State.setReg_eq (s : State) (n v : Word) :
    s.setReg n v = { s with
      codec := if n = 0 then v.setWidth 3 else s.codec
      opt := if n = 1 then v.setWidth 7 else s.opt
      srcLen := if n = 2 then s.cfg.fit v else s.srcLen
      skip := if n = 3 then s.cfg.fit v else s.skip
      msMode := if n = 4 then v.setWidth 2 else s.msMode
      msMaxOff := if n = 5 then s.cfg.fit v else s.msMaxOff
      msMaxLen := if n = 6 then s.cfg.fit v else s.msMaxLen
      bbMaxInput := if n = 7 then s.cfg.fit v else s.bbMaxInput } := by
  have hn : ∀ k : Nat, k < 8 → (n = BitVec.ofNat 32 k ↔ n.toNat = k) := fun k hk => by
    rw [BitVec.toNat_eq, BitVec.toNat_ofNat, Nat.mod_eq_of_lt (by omega)]
  unfold State.setReg
  split <;> simp_all

/-- Settles O2: the value is `State.reg`, whose equations are the table of R29. -/
theorem registerRead : Obligations.RegisterRead := by
  intro s r
  refine ⟨s.reg r, rfl, ?_⟩
  refine ⟨?_, ?_, ?_, ?_, ?_, ?_, ?_, ?_, ?_, ?_, ?_, ?_, s.reg_of_gt⟩
  case refine_9 => rintro rfl; exact s.status_toNat
  all_goals rintro rfl; rfl

/-- Settles O3: `State.setReg_eq` names the register, `Config.fit` its width. -/
theorem registerWrite : Obligations.RegisterWrite := by
  intro s r v
  refine ⟨?_, s.cfg.fit_toNat v, Config.fit_of_wide v⟩
  have hexec : exec (.regWrite r v) s = .next ((s.setReg r v).answered []) := rfl
  rw [hexec, State.setReg_eq]
  rw [BitVec.setWidth_eq_extractLsb' (by decide), BitVec.setWidth_eq_extractLsb' (by decide),
    BitVec.setWidth_eq_extractLsb' (by decide)]

end Sys2Proof.Machine
end

section
/-! PROOFS. What every `TD_STEP` keeps, and what it consumes (10_state.md R27, 43_decoder_common.md R220). A step of the decoder reads the stream, appends to `OUT`, and sets the decoder's own registers. Whatever these few updates keep, every
token of every codec keeps. -/

namespace Sys2Proof.Machine

-- No concurrency, as in the tests.
set_option Elab.async false

/-- Kept by what a token's rule does to the state besides reading the stream (43_decoder_common.md R211, R214, R218). -/
structure TokenKept (p : State → Prop) : Prop where
  putByte : ∀ {s} v, p s → (putByte v s).EndsIn p p
  reverseOut : ∀ {s : State}, p s → p s.reverseOut
  dState : ∀ {s : State} {d}, d ≠ .fault → p s → p { s with dState := d }
  dTokens : ∀ {s : State} v, p s → p { s with dTokens := s.cfg.fit v }
  dHdrLen : ∀ {s : State} v, p s → p { s with dHdrLen := s.cfg.fit v }
  dSubset : ∀ {s : State} n, p s → p { s with dSubset := n }
  pltHeader : ∀ {s : State} n v, p s → p { s with dQ := n, dSentinel := s.cfg.fit v }

/-- `p` holds before a step of the decoder and wherever it raises; `q` holds once it has read something. The offset of a ZX0 match gives
its shared bit back to the reader (48_zx0.md R356), which may cost `q` but not `p`. -/
structure StepMoves (p q : State → Prop) : Prop where
  reader : statePort.Advances p q
  before : TokenKept p
  behind : TokenKept q
  share : ∀ {s : State} v, q s → p { s with dLastOffset := s.cfg.fit v, rBacktrack := true }

theorem setDState_endsIn {p q : State → Prop} (h : TokenKept q) {d : DState} (hd : d ≠ .fault) {s : State} (hs : q s) :
    (setDState d s).EndsIn q p :=
  h.dState hd hs

namespace StepMoves
variable {p q : State → Prop} (h : StepMoves p q)
include h

theorem weaken {s : State} (hs : q s) : p s := h.reader.weaken hs

/-! ### The actions on `OUT` -/

theorem putByte (v : Byte) {s : State} (hs : q s) : (putByte v s).EndsIn q p :=
  (h.behind.putByte v hs).mono (fun _ hs => hs) fun _ hs => h.weaken hs

theorem thenState {r : Res State Fault Unit} (hr : r.EndsIn q p) {d : DState} (hd : d ≠ .fault) :
    (thenState r d).EndsIn q p :=
  hr.bind fun _ _ hs => setDState_endsIn h.behind hd hs

theorem putRun (v : Byte) (n : Nat) {s : State} (hs : q s) : (putRun v n s).EndsIn q p := by
  induction n generalizing s with
  | zero => exact hs
  | succ n ih => exact (h.putByte v hs).bind fun _ _ hs => ih hs

theorem putLiteral {s : State} (hs : q s) : (putLiteral s).EndsIn q p :=
  (h.reader.byte (h.weaken hs)).bind fun v _ hs => h.putByte v hs

theorem literalRun (n : Nat) {s : State} (hs : q s) : (literalRun n s).EndsIn q p := by
  induction n generalizing s with
  | zero => exact hs
  | succ n ih => exact (h.putLiteral hs).bind fun _ _ hs => ih hs

theorem copyLoop (offset n : Nat) {s : State} (hs : q s) : (copyLoop offset n s).EndsIn q p := by
  induction n generalizing s with
  | zero => exact hs
  | succ n ih => exact (h.putByte _ hs).bind fun _ _ hs => ih hs

theorem copy (offset length : Nat) {s : State} (hs : q s) : (copy offset length s).EndsIn q p :=
  .ite (fun _ => h.weaken hs) fun _ => h.copyLoop offset length hs

/-! ### The rules of the tokens -/

theorem literal (v : Byte) {s : State} (hs : q s) : (Machine.thenState (Machine.putByte v s) .token).EndsIn q p :=
  h.thenState (h.putByte v hs) (by decide)

theorem run (n : Nat) {s : State} (hs : q s) : (Machine.thenState (Machine.literalRun n s) .token).EndsIn q p :=
  h.thenState (h.literalRun n hs) (by decide)

theorem backRef (offset length : Nat) {s : State} (hs : q s) :
    (Machine.thenState (Machine.copy offset length s) .token).EndsIn q p :=
  h.thenState (h.copy offset length hs) (by decide)

theorem stop {s : State} (hs : q s) : (setDState .done s).EndsIn q p := setDState_endsIn h.behind (by decide) hs

theorem zx0StateBit {other : DState} (ho : other ≠ .fault) {s : State} (hs : q s) : (zx0StateBit other s).EndsIn q p :=
  (h.reader.bit (h.weaken hs)).bind fun b _ hs =>
    setDState_endsIn h.behind (by cases b <;> simp [ho]) hs

theorem zx0MatchLength {s : State} (hs : p s) : (zx0MatchLength s).EndsIn q p := by
  refine (h.reader.igReadCode _ _ _ _ hs).bind fun g s hs => ?_
  cases g with
  | none => exact h.weaken hs
  | some g => exact .ite (fun _ => h.weaken hs) fun _ => hs

theorem zx0Match (msb : Word) (bo : Byte) {s : State} (hs : q s) : (zx0Match msb bo s).EndsIn q p :=
  (h.zx0MatchLength (h.share _ hs)).bind fun length _ hs =>
    (h.copy _ length hs).bind fun _ _ hs => h.zx0StateBit (by decide) hs

theorem zx0End {s : State} (hs : q s) : (zx0End s).EndsIn q p := by
  refine h.stop ?_
  split
  · exact h.behind.reverseOut hs
  · exact hs

theorem pltQ (u : BitVec 3) {s : State} (hs : q s) : (pltQ u s).EndsIn q p :=
  .ite (fun _ => h.weaken hs) fun _ => h.behind.pltHeader _ _ hs

theorem bbLen (n : Word) {s : State} (hs : q s) : (bbLen n s).EndsIn q p := by
  have hn := h.behind.dHdrLen n hs
  exact .ite (fun _ => h.weaken hn) fun _ => setDState_endsIn h.behind (by split <;> simp) hn

theorem bbEnd {s : State} (hs : q s) : (bbEnd s).EndsIn q p := .ite (fun _ => h.weaken hs) fun _ => h.stop hs

theorem runToken (i : Instr) {s : State} (hs : q s) : (runToken i s).EndsIn q p := by
  cases i with
  | pltFirst v | pltLit v | dan1First v | dan1Lit v | dan3First v | dan3Lit v | zx7First v | zx7Lit v | bbLit v =>
    exact h.literal v hs
  | mdkRaw | lzfLrun | dan1Raw | dan3Raw => exact h.run _ hs
  | lzfShort | lzfLong | pltMatch | dan1Match | dan3Match | zx7Match | bbMatch => exact h.backRef _ _ hs
  | mdkEnd | lzfEnd | pltEnd | dan1End | dan3End | zx7End => exact h.stop hs
  | mdkRle c v => exact h.thenState (h.putRun v _ hs) (by decide)
  | pltQ u => exact h.pltQ u hs
  | dan3Subset n => exact h.behind.dSubset n hs
  | zx0Lits n => exact (h.literalRun _ hs).bind fun _ _ hs => h.zx0StateBit (by decide) hs
  | zx0Rep len => exact (h.copy _ _ hs).bind fun _ _ hs => h.zx0StateBit (by decide) hs
  | zx0Match msb bo => exact h.zx0Match msb bo hs
  | zx0End => exact h.zx0End hs
  | bbLen n => exact h.bbLen n hs
  | bbEnd => exact h.bbEnd hs
  | _ => trivial

/-! ### Headers and steps -/

theorem runElement (e : Element) {s : State} (hs : p s) : (runElement e s).EndsIn q p :=
  (h.reader.decodeElement s.decodeCtx e hs).bind fun i _ hs => h.runToken i hs

theorem tokenBody {s : State} (hs : p s) : (tokenBody s).EndsIn q p := by
  unfold Machine.tokenBody
  cases s.tokenElement with
  | ok e => exact h.runElement e hs
  | error f => trivial

theorem headerBody {s : State} (hs : p s) : (headerBody s).EndsIn q p := by
  unfold Machine.headerBody
  cases s.jobCodec with
  | mdkRle | lzf | zx0 => exact h.tokenBody (h.before.dState (by decide) hs)
  | dan1 | zx7 | bitBuster => exact h.runElement _ hs
  | pletter =>
    refine Res.EndsIn.bind (q' := p) (.ite (fun _ => h.before.pltHeader _ _ hs) fun _ => ?_) fun _ _ hs => h.runElement _ hs
    exact (h.runElement .pltQ hs).mono (fun _ => h.weaken) fun _ hs => hs
  | dan3 =>
    exact (h.runElement .dan3Subset (h.before.dSubset 0 hs)).bind fun _ _ hs => h.runElement _ (h.weaken hs)

theorem counted {r : Res State Fault Unit} (hr : r.EndsIn q p) : (counted r).EndsIn q p :=
  hr.bind fun _ _ hs => h.behind.dTokens _ hs

end StepMoves

/-! ### `TD_STEP` and `TD_RUN` keep what their reads and updates keep -/

namespace StepMoves
variable {p : State → Prop} (h : StepMoves p p)
include h

theorem tdStep {s : State} (hs : p s) : (tdStep s).EndsIn p p := by
  unfold Machine.tdStep
  cases s.dState with
  | idle | done | fault => exact hs
  | header => exact .ite (fun _ => h.stop hs) fun _ => h.counted (h.headerBody hs)
  | token | zx0Lit | zx0Last | zx0New => exact h.counted (h.tokenBody hs)

theorem tdLoop (n : Nat) {s : State} (hs : p s) : (tdLoop n s).EndsIn p p := by
  induction n generalizing s with
  | zero => trivial
  | succ n ih => exact .ite (fun _ => hs) fun _ => (h.tdStep hs).bind fun _ _ hs => ih hs

theorem tdRun {s : State} (hs : p s) : (tdRun s).EndsIn p p := .ite (fun _ => hs) fun _ => h.tdLoop _ hs

end StepMoves

/-! ## What a step consumes -/

/-! ### Reversing `OUT` -/

/-- Reversing `OUT` (43_decoder_common.md R218) leaves everything else as it is. -/
theorem State.reverseOut_eq (s : State) : s.reverseOut = { s with out := s.reverseOut.out } := by
  obtain ⟨m, hm⟩ : ∃ m, s.reverseOut = { s with out := m } := State.exchanges_frame _ s
  rw [hm]

/-! ### The measure of the reader -/

/-- The reader in `t` stands behind the reader in `s`, with at least `n` bits less to deliver. -/
def State.ReadOn (s : State) (n : Nat) (t : State) : Prop := s.rPos ≤ t.rPos ∧ t.unread + n ≤ s.unread

/-- A bit that has been read is one bit less to deliver. -/
theorem readBit_readOn {s t : State} {b : Bool} (h : readBit s = .ok b t) : s.ReadOn 1 t := by
  obtain ⟨hb, -, rfl⟩ | ⟨-, hm, -, rfl⟩ | ⟨-, hm, hlt, -, rfl⟩ := readBit_ok h
  · exact ⟨BitVec.le_refl _, (State.unread_pending hb).le⟩
  · exact ⟨BitVec.le_refl _, (State.unread_open hm).le⟩
  · exact ⟨by bv_omega, (State.unread_fetch hm hlt).le⟩

/-- A byte that has been read is eight bits less to deliver. -/
theorem readByte_readOn {s t : State} {v : Byte} (h : readByte s = .ok v t) : s.ReadOn 8 t := by
  obtain ⟨hlt, -, rfl⟩ := readByte_ok h
  exact ⟨by bv_omega, (State.unread_byte v hlt).le⟩

theorem State.ReadOn.trans {s t u : State} {m n : Nat} (h₁ : s.ReadOn m t) (h₂ : t.ReadOn n u) : s.ReadOn (m + n) u :=
  ⟨BitVec.le_trans h₁.1 h₂.1, by have := h₁.2; have := h₂.2; omega⟩

theorem State.ReadOn.le {s t : State} {m n : Nat} (h : s.ReadOn m t) (hn : n ≤ m) : s.ReadOn n t :=
  ⟨h.1, by have := h.2; omega⟩

/-- From any state reached without an increase, a bit or a byte is a decrease, and a read that raises has changed nothing. -/
theorem readOn_reader (s : State) : statePort.Advances (s.ReadOn 0) (s.ReadOn 1) where
  bit {t} ht := by
    change (readBit t).EndsIn _ _
    cases hr : readBit t with
    | ok b u => exact ht.trans (readBit_readOn hr)
    | raised k u => obtain ⟨-, rfl, -⟩ := readBit_raised hr; exact ht
    | stuck f => trivial
  byte {t} ht := by
    change (readByte t).EndsIn _ _
    cases hr : readByte t with
    | ok v u => exact (ht.trans (readByte_readOn hr)).le (by omega)
    | raised k u => obtain ⟨-, rfl, -⟩ := readByte_raised hr; exact ht
    | stuck f => trivial
  one ht := ht
  weaken ht := ht.le (by omega)

/-- No rule of a token moves the reader but by reading. -/
theorem readOn_kept (s : State) (n : Nat) : TokenKept (s.ReadOn n) where
  putByte _ ht := .ite (fun _ => ht) fun _ => ht
  reverseOut {t} ht := by rw [t.reverseOut_eq]; exact ht
  dState _ ht := ht
  dTokens _ ht := ht
  dHdrLen _ ht := ht
  dSubset _ ht := ht
  pltHeader _ _ ht := ht

/-- The shared bit of a ZX0 match is one bit more to deliver, no more than the step has read before. -/
theorem readOn_moves (s : State) : StepMoves (s.ReadOn 0) (s.ReadOn 1) where
  reader := readOn_reader s
  before := readOn_kept s 0
  behind := readOn_kept s 1
  share {t} v ht := by
    obtain ⟨hp, hu⟩ := ht
    have hle : ({ t with dLastOffset := t.cfg.fit v, rBacktrack := true } : State).unread ≤ t.unread + 1 := by
      simp only [State.unread]; split <;> omega
    exact ⟨hp, by omega⟩

/-- The two ways a transaction without result words can end. -/
theorem finish_quiet_endsIn {body : State → Res State Fault Unit} {q p : State → Prop} {s t : State}
    (h : (body s).EndsIn q p) (ht : finish (quiet body s) = .next t) :
    (∃ u, q u ∧ t = u.answered []) ∨ ∃ k u, p u ∧ t = (u.raise k).answered [] := by
  unfold quiet at ht
  cases hb : body s with
  | ok a u => rw [hb] at h ht; cases ht; exact .inl ⟨u, h, rfl⟩
  | raised k u => rw [hb] at h ht; cases ht; exact .inr ⟨k, u, h, rfl⟩
  | stuck f => rw [hb] at ht; cases ht

/-- A step of a job ends in `D_DONE` or has read at least one bit, if it does not raise. -/
theorem tdStep_readOn {s : State} (hs : s.dState ≠ .fault) :
    (tdStep s).EndsIn (fun t => s.ReadOn 0 t ∧ (t.dState = .done ∨ s.ReadOn 1 t)) (s.ReadOn 0) := by
  have h := readOn_moves s
  have hs0 : s.ReadOn 0 s := ⟨BitVec.le_refl _, Nat.le_refl _⟩
  have hread : ∀ r : Res State Fault Unit, r.EndsIn (s.ReadOn 1) (s.ReadOn 0) →
      r.EndsIn (fun t => s.ReadOn 0 t ∧ (t.dState = .done ∨ s.ReadOn 1 t)) (s.ReadOn 0) := fun r hr =>
    hr.mono (fun t ht => ⟨h.weaken ht, .inr ht⟩) fun t ht => ht
  unfold tdStep
  cases hd : s.dState with
  | idle => exact hs0
  | done => exact ⟨hs0, .inl hd⟩
  | fault => exact absurd hd hs
  | header => exact .ite (fun _ => ⟨hs0, .inl rfl⟩) fun _ => hread _ (h.counted (h.headerBody hs0))
  | token | zx0Lit | zx0Last | zx0New => exact hread _ (h.counted (h.tokenBody hs0))

/-- Settles O42: a step that neither raises nor ends the job has read a bit (`tdStep_readOn`). -/
theorem stepConsumes : Obligations.StepConsumes := by
  rintro s t ⟨hfault, -, hd, -⟩ ht
  rw [exec_tdStep hfault] at ht
  obtain ⟨u, ⟨h0, (hdone | h1)⟩, rfl⟩ | ⟨k, u, h0, rfl⟩ := finish_quiet_endsIn (tdStep_readOn hd) ht
  · exact ⟨h0.1, fun hin => by simp [hdone] at hin⟩
  · exact ⟨h0.1, fun _ => h1.2⟩
  · exact ⟨h0.1, fun hin => by simp at hin⟩

end Sys2Proof.Machine
end

section
/-! PROOFS. The invariant (10_state.md R22, R23, R41, 20_memory.md R60, 60_exceptions.md R407), one group of registers at a time, and that every transaction
keeps it. -/

namespace Sys2Proof.Machine

-- No concurrency, as in the tests.
set_option Elab.async false

/-! ### Values of `VAL_BITS` bits -/

/-- Where `OUT_CAP` is a number of `VAL_BITS` bits, so is `v`. -/
def State.fits (s : State) (v : Word) : Prop :=
  s.cfg.outCap.toNat < 2 ^ s.cfg.valueBits → v.toNat < 2 ^ s.cfg.valueBits

/-- `State.valuesFit` under the premise of the invariant, by unit. -/
structure State.Fits (s : State) : Prop where
  writer : s.fits s.outLen ∧ s.fits s.wIndex
  reader : s.fits s.rPos ∧ s.fits s.rIndex
  decoder : s.fits s.dLastOffset ∧ s.fits s.dSentinel ∧ s.fits s.dHdrLen ∧ s.fits s.dTokens
  scanner : s.fits s.sPos
  config : s.fits s.srcLen ∧ s.fits s.skip ∧ s.fits s.msMaxOff ∧ s.fits s.msMaxLen ∧ s.fits s.bbMaxInput

theorem State.valuesFit_iff_fits (s : State) :
    (s.cfg.outCap.toNat < 2 ^ s.cfg.valueBits → s.valuesFit = true) ↔ s.Fits := by
  constructor
  · intro h
    simp only [State.valuesFit, List.all_cons, List.all_nil, Bool.and_eq_true, decide_eq_true_eq] at h
    constructor <;> simp only [State.fits] <;> tauto
  · rintro ⟨hw, hr, hd, hs, hc⟩ hcap
    simp only [State.fits, hcap, true_implies] at hw hr hd hs hc
    simp [State.valuesFit, hw, hr, hd, hs, hc]

theorem State.fits_fit (s : State) (v : Word) : s.fits (s.cfg.fit v) := fun _ => s.cfg.fit_lt v

theorem State.fits_zero (s : State) : s.fits 0 := fun _ => Nat.two_pow_pos _

theorem State.fits.of_le {s : State} {v w : Word} (h : s.fits v) (hw : w ≤ v) : s.fits w :=
  fun hc => Nat.lt_of_le_of_lt hw (h hc)

theorem State.fits_of_le_outCap {s : State} {v : Word} (h : v ≤ s.cfg.outCap) : s.fits v :=
  fun hc => Nat.lt_of_le_of_lt h hc

/-- The number after one that is below a register's value. -/
theorem State.fits.succ_of_lt {s : State} {v w : Word} (h : s.fits v) (hw : w < v) : s.fits (w + 1) :=
  h.of_le (by bv_omega)

/-! ### Buffers and tables within their sizes (20_memory.md R60) -/

/-- A buffer in canonical form without a byte at `n` or above. -/
def Memory.Within (m : Memory) (n : Nat) : Prop := Memory.wf m = true ∧ ∀ c ∈ m, c.1 < n

/-- A table in canonical form without an entry at `n` or above. -/
def Table.Within (t : Table) (n : Nat) : Prop := t.wf = true ∧ t.sized n = true

/-- `State.canonical` and `State.sized`, by space. -/
structure State.Spaces (s : State) : Prop where
  src : Memory.Within s.src s.cfg.srcCap.toNat
  out : Memory.Within s.out s.cfg.outCap.toNat
  head : s.head.Within Params.keys
  prev : s.prev.Within s.cfg.srcCap.toNat
  mlen : s.mlen.Within (s.cfg.srcCap.toNat + 1)

theorem State.spaces_iff (s : State) : s.canonical = true ∧ s.sized = true ↔ s.Spaces := by
  simp only [State.canonical, State.sized, Bool.and_eq_true, List.all_eq_true, decide_eq_true_eq]
  constructor
  · rintro ⟨⟨⟨⟨⟨cs, co⟩, ch⟩, cp⟩, cm⟩, ⟨⟨⟨ss, so⟩, sh⟩, sp⟩, sm⟩
    exact ⟨⟨cs, ss⟩, ⟨co, so⟩, ⟨ch, sh⟩, ⟨cp, sp⟩, ⟨cm, sm⟩⟩
  · rintro ⟨⟨cs, ss⟩, ⟨co, so⟩, ⟨ch, sh⟩, ⟨cp, sp⟩, ⟨cm, sm⟩⟩
    exact ⟨⟨⟨⟨⟨cs, co⟩, ch⟩, cp⟩, cm⟩, ⟨⟨⟨ss, so⟩, sh⟩, sp⟩, sm⟩

theorem Memory.within_nil (n : Nat) : Memory.Within [] n := ⟨rfl, nofun⟩

theorem Memory.Within.write {m : Memory} {n a : Nat} (h : Memory.Within m n) (ha : a < n) (v : Byte) :
    Memory.Within (Memory.write m a v) n := by
  refine ⟨Memory.wf_write a v h.1, fun c hc => ?_⟩
  obtain rfl | hc := Cells.mem_write hc
  · exact ha
  · exact h.2 c hc

theorem Table.within_filled {k n : Nat} (v : Word) (h : k ≤ n) : (Table.filled k v).Within n :=
  ⟨Table.wf_filled k v, by simp [Table.sized, Table.filled, h]⟩

theorem Table.within_void (n : Nat) : Table.void.Within n := Table.within_filled 0 (Nat.zero_le n)

theorem Table.Within.write {t : Table} {n a : Nat} (h : t.Within n) (ha : a < n) (v : Word) :
    (t.write a v).Within n := by
  refine ⟨Table.wf_write a v h.1, ?_⟩
  have hs := h.2
  simp only [Table.sized, Bool.and_eq_true, List.all_eq_true, decide_eq_true_eq] at hs
  obtain ⟨hspan, hcells⟩ := hs
  simp only [Table.write]
  split <;> simp only [Table.sized, Bool.and_eq_true, List.all_eq_true, decide_eq_true_eq] <;>
    refine ⟨hspan, fun c hc => ?_⟩
  · exact hcells c (Cells.mem_erase hc)
  · obtain rfl | hc := Cells.mem_write hc
    · exact ha
    · exact hcells c hc

/-! ### One group of registers at a time -/

/-- The invariant, assembled from its groups. -/
theorem State.Inv.of_groups {s : State} (hc : s.canonical = true ∧ s.sized = true) (ho : s.outWritten) (hw : s.writerOk) (hr : s.readerOk)
    (hf : s.faultOk) (f : s.Fits) : s.Inv :=
  ⟨hc.1, hc.2, ho, hw, hr, hf, s.valuesFit_iff_fits.2 f⟩

namespace State.Inv
variable {s : State} (h : s.Inv)
include h

theorem tidy : s.canonical = true ∧ s.sized = true := ⟨h.canonical, h.sized⟩

theorem spaces : s.Spaces := s.spaces_iff.1 h.tidy

theorem fits : s.Fits := s.valuesFit_iff_fits.1 h.valuesFit

/-- The number after a position of the stream is a number of `VAL_BITS` bits, because `SRC_LEN` is one. -/
theorem fits_succ {v : Word} (hv : v < s.srcLen) : s.fits (v + 1) := h.fits.config.1.succ_of_lt hv

/-! ### Fields the invariant does not look at -/

theorem cmds (cmds : List Command) : ({ s with cmds := cmds } : State).Inv :=
  ⟨h.canonical, h.sized, h.outWritten, h.writerOk, h.readerOk, h.faultOk, h.valuesFit⟩

theorem answered (res : List Word) : (s.answered res).Inv :=
  ⟨h.canonical, h.sized, h.outWritten, h.writerOk, h.readerOk, h.faultOk, h.valuesFit⟩

theorem draws (n : Nat) : ({ s with draws := n } : State).Inv :=
  ⟨h.canonical, h.sized, h.outWritten, h.writerOk, h.readerOk, h.faultOk, h.valuesFit⟩

/-! ### The fault state -/

/-- Taking a fault restores what ties `FAULT`, `ERR` and `d_state` together, whatever they were. -/
theorem raise (k : ErrKind) : (s.raise k).Inv :=
  ⟨h.canonical, h.sized, h.outWritten, h.writerOk, h.readerOk, ⟨by simp, by cases k <;> simp [errCode]⟩, h.valuesFit⟩

/-- A state of the decoder without a fault. -/
theorem running {d : DState} (hd : d ≠ .fault) : ({ s with fault := false, err := 0, dState := d } : State).Inv :=
  ⟨h.canonical, h.sized, h.outWritten, h.writerOk, h.readerOk, ⟨by simp [hd], by simp⟩, h.valuesFit⟩

theorem err_of_running (hf : s.fault = false) : s.err = 0 := by
  have := h.faultOk.2
  simpa [hf] using this

/-! ### The reader (10_state.md R23) -/

theorem reader {p i : Word} {m : Byte} (b : Bool) (v : Byte) (d : Bool) (hm : maskOk m = true) (hi : m ≠ 0 → i < p)
    (hp : s.fits p) (hif : s.fits i) :
    ({ s with rPos := p, rMask := m, rIndex := i, rBacktrack := b, rLast := v, dMirror := d } : State).Inv :=
  have f := h.fits
  .of_groups h.tidy h.outWritten h.writerOk ⟨hm, hi⟩ h.faultOk ⟨f.writer, ⟨hp, hif⟩, f.decoder, f.scanner, f.config⟩

theorem brStart : s.brStart.Inv := h.reader _ _ _ rfl (absurd rfl) s.fits_zero s.fits_zero

/-! ### The decoder (R25) -/

theorem decoder {o n l c : Word} (q u : BitVec 3) (ho : s.fits o) (hn : s.fits n) (hl : s.fits l) (hc : s.fits c) :
    ({ s with dLastOffset := o, dSentinel := n, dHdrLen := l, dTokens := c, dQ := q, dSubset := u } : State).Inv :=
  have f := h.fits
  .of_groups h.tidy h.outWritten h.writerOk h.readerOk h.faultOk ⟨f.writer, f.reader, ⟨ho, hn, hl, hc⟩, f.scanner, f.config⟩

/-! ### The configuration registers (R29) -/

theorem config {a b c d e : Word} (x : BitVec 3) (y : BitVec 7) (z : BitVec 2) (ha : s.fits a) (hb : s.fits b)
    (hc : s.fits c) (hd : s.fits d) (he : s.fits e) :
    ({ s with codec := x, opt := y, msMode := z, srcLen := a, skip := b, msMaxOff := c, msMaxLen := d,
              bbMaxInput := e } : State).Inv :=
  have f := h.fits
  .of_groups h.tidy h.outWritten h.writerOk h.readerOk h.faultOk ⟨f.writer, f.reader, f.decoder, f.scanner, ⟨ha, hb, hc, hd, he⟩⟩

theorem setReg (n v : Word) : (s.setReg n v).Inv := by
  obtain ⟨hl, hk, ho, hm, hb⟩ := h.fits.config
  have hv := s.fits_fit v
  rw [State.setReg_eq]
  exact h.config _ _ _ (by split <;> assumption) (by split <;> assumption) (by split <;> assumption)
    (by split <;> assumption) (by split <;> assumption)

/-! ### The scanner and its tables (R36) -/

theorem scanner {p : Word} {hd pv ml : Table} (e : Nat) (hp : s.fits p) (hh : hd.Within Params.keys)
    (hv : pv.Within s.cfg.srcCap.toNat) (hm : ml.Within (s.cfg.srcCap.toNat + 1)) :
    ({ s with sPos := p, head := hd, prev := pv, mlen := ml, epoch := e } : State).Inv :=
  have f := h.fits
  have sp := h.spaces
  .of_groups ((State.spaces_iff _).2 ⟨sp.src, sp.out, hh, hv, hm⟩) h.outWritten
    h.writerOk h.readerOk h.faultOk ⟨f.writer, f.reader, f.decoder, hp, f.config⟩

theorem voidTables : s.voidTables.Inv :=
  h.scanner _ h.fits.scanner (Table.within_void _) (Table.within_void _) (Table.within_void _)

/-! ### The buffers -/

theorem writeSrc {a : Word} (ha : a < s.cfg.srcCap) (v : Byte) :
    ({ s with src := Memory.write s.src a.toNat v } : State).Inv :=
  have sp := h.spaces
  have f := h.fits
  .of_groups ((State.spaces_iff _).2 ⟨sp.src.write ha v, sp.out, sp.head, sp.prev, sp.mlen⟩) h.outWritten
    h.writerOk h.readerOk h.faultOk ⟨f.writer, f.reader, f.decoder, f.scanner, f.config⟩

/-- Storing a byte of `OUT` that exists. -/
theorem writeOut {a : Nat} (ha : a < s.cfg.outCap.toNat) (v : Byte) :
    ({ s with out := Memory.write s.out a v } : State).Inv := by
  have sp := h.spaces
  have f := h.fits
  refine .of_groups ((State.spaces_iff _).2 ⟨sp.src, sp.out.write ha v, sp.head, sp.prev, sp.mlen⟩) ⟨h.outWritten.1, fun b hb => ?_⟩
    h.writerOk h.readerOk h.faultOk ⟨f.writer, f.reader, f.decoder, f.scanner, f.config⟩
  rw [Memory.read_write]
  split
  · rfl
  · exact h.outWritten.2 b hb

/-! ### The writer (R22) -/

theorem writer {n i : Word} {m : Byte} (b : Bool) (hn : n ≤ s.cfg.outCap)
    (hw : ∀ a, a < n.toNat → (Memory.read s.out a).isSome = true) (hm : maskOk m = true)
    (hi : m ≠ 0 → i < s.cfg.outCap) (hif : s.fits i) :
    ({ s with outLen := n, wMask := m, wIndex := i, wBacktrack := b } : State).Inv :=
  have f := h.fits
  .of_groups h.tidy ⟨hn, hw⟩ ⟨hm, hi⟩ h.readerOk h.faultOk
    ⟨⟨State.fits_of_le_outCap hn, hif⟩, f.reader, f.decoder, f.scanner, f.config⟩

theorem bwStart : s.bwStart.Inv :=
  h.writer false (Nat.zero_le _) nofun rfl (absurd rfl) s.fits_zero

/-- `out_len` alone to 0, as `TD_START` sets it (notes/assumptions/18.md). -/
theorem outLen_zero : ({ s with outLen := 0 } : State).Inv :=
  h.writer _ (Nat.zero_le _) nofun h.writerOk.1 h.writerOk.2 h.fits.writer.2

/-! ### Leaving the fault state -/

theorem clearFault : s.clearFault.Inv := by
  cases hf : s.fault with
  | true =>
    rw [State.clearFault_of_fault hf]
    exact h.voidTables.bwStart.running (d := .idle) (by decide)
  | false =>
    rw [State.clearFault_of_not_fault hf, ← h.err_of_running hf]
    exact h

theorem aborted : s.aborted.Inv :=
  have hi := h.voidTables.bwStart.brStart.running (d := .idle) (by decide)
  have ⟨ho, hn, hl, _⟩ := h.fits.decoder
  have hd := hi.decoder s.dQ s.dSubset ho hn hl s.fits_zero
  hd.scanner _ s.fits_zero (Table.within_void _) (Table.within_void _) (Table.within_void _)

end State.Inv

/-! ## Every transaction keeps the invariant -/

/-- The invariant while an operation runs, which it does only without a fault (60_exceptions.md R406). -/
structure State.Live (s : State) : Prop where
  inv : s.Inv
  running : s.fault = false

/-! ### The mask registers -/

theorem maskOk_shift {m : Byte} (h : maskOk m = true) : maskOk (m >>> 1) = true := by
  simp only [maskOk, List.contains_eq_mem, decide_eq_true_eq] at h
  fin_cases h <;> decide

theorem ne_zero_of_shift {m : Byte} (h : m >>> 1 ≠ 0) : m ≠ 0 := by
  rintro rfl; exact h rfl

/-! ### The decoder -/

theorem readBit_live {s : State} (h : s.Live) : (readBit s).EndsIn State.Live State.Live := by
  have hi := h.inv
  obtain ⟨hm, hlt⟩ := hi.readerOk
  obtain ⟨hp, hx⟩ := hi.fits.reader
  cases hr : readBit s with
  | stuck f => trivial
  | raised k t => obtain ⟨-, rfl, -⟩ := readBit_raised hr; exact h
  | ok b t =>
    obtain ⟨-, -, rfl⟩ | ⟨-, -, -, rfl⟩ | ⟨-, -, hlt', -, rfl⟩ := readBit_ok hr
    · exact ⟨hi.reader _ _ _ hm hlt hp hx, h.running⟩
    · exact ⟨hi.reader _ _ _ (maskOk_shift hm) (fun hz => hlt (ne_zero_of_shift hz)) hp hx, h.running⟩
    · exact ⟨hi.reader _ _ _ rfl (fun _ => by bv_omega) (hi.fits_succ hlt') hp, h.running⟩

theorem readByte_live {s : State} (h : s.Live) : (readByte s).EndsIn State.Live State.Live := by
  have hi := h.inv
  obtain ⟨hm, hlt⟩ := hi.readerOk
  cases hr : readByte s with
  | stuck f => trivial
  | raised k t => obtain ⟨-, rfl, -⟩ := readByte_raised hr; exact h
  | ok v t =>
    obtain ⟨hlt', -, rfl⟩ := readByte_ok hr
    exact ⟨hi.reader _ _ _ hm (fun hz => by have := hlt hz; bv_omega) (hi.fits_succ hlt')
      hi.fits.reader.2, h.running⟩

theorem putByte_live (v : Byte) {s : State} (h : s.Live) : (putByte v s).EndsIn State.Live State.Live := by
  refine .ite (fun _ => h) fun hfull => ⟨?_, h.running⟩
  have hlt : s.outLen < s.cfg.outCap := by bv_omega
  have hw := h.inv.writeOut hlt v
  refine hw.writer _ (by bv_omega) (fun a ha => ?_) h.inv.writerOk.1 h.inv.writerOk.2 h.inv.fits.writer.2
  change (Memory.read (Memory.write s.out s.outLen.toNat v) a).isSome = true
  rw [Memory.read_write]
  split
  · rfl
  · exact h.inv.outWritten.2 a (by bv_omega)

/-- Both bytes of an exchange exist. -/
theorem exchange_inv {s : State} (h : s.Inv) {a : Nat} (ha : a < s.outLen.toNat) : (s.exchange a).Inv := by
  have hcap : s.outLen.toNat ≤ s.cfg.outCap.toNat := h.outWritten.1
  exact (h.writeOut (a := a) (by omega) _).writeOut (a := s.outLen.toNat - 1 - a) (by simp only; omega) _

theorem exchanges_inv {s : State} (h : s.Inv) (n : Nat) (hn : n ≤ s.outLen.toNat) : (s.exchanges n).Inv := by
  induction n with
  | zero => exact h
  | succ n ih =>
    exact exchange_inv (ih (by omega)) (by rw [State.exchanges_outLen]; omega)

theorem reverseOut_live {s : State} (h : s.Live) : s.reverseOut.Live :=
  ⟨exchanges_inv h.inv _ (by omega), by rw [s.reverseOut_eq]; exact h.running⟩

theorem State.Live.dState {s : State} (h : s.Live) {d : DState} (hd : d ≠ .fault) : ({ s with dState := d } : State).Live := by
  have hr := h.inv.running hd
  rw [← h.running, ← h.inv.err_of_running h.running] at hr
  exact ⟨hr, h.running⟩

/-- An update of the decoder's registers. -/
theorem State.Live.decoder {s : State} (h : s.Live) {o n l c : Word} (q u : BitVec 3) (ho : s.fits o) (hn : s.fits n)
    (hl : s.fits l) (hc : s.fits c) :
    ({ s with dLastOffset := o, dSentinel := n, dHdrLen := l, dTokens := c, dQ := q, dSubset := u } : State).Live :=
  ⟨h.inv.decoder q u ho hn hl hc, h.running⟩

theorem live_kept : TokenKept State.Live where
  putByte v h := putByte_live v h
  reverseOut h := reverseOut_live h
  dState hd h := h.dState hd
  dTokens {s} v h :=
    have ⟨ho, hn, hl, _⟩ := h.inv.fits.decoder
    h.decoder _ _ ho hn hl (s.fits_fit v)
  dHdrLen {s} v h :=
    have ⟨ho, hn, _, hc⟩ := h.inv.fits.decoder
    h.decoder _ _ ho hn (s.fits_fit v) hc
  dSubset n h :=
    have ⟨ho, hn, hl, hc⟩ := h.inv.fits.decoder
    h.decoder _ n ho hn hl hc
  pltHeader {s} n v h :=
    have ⟨ho, _, hl, hc⟩ := h.inv.fits.decoder
    h.decoder n _ ho (s.fits_fit v) hl hc

theorem live_reader : statePort.Advances State.Live State.Live where
  bit h := readBit_live h
  byte h := readByte_live h
  one h := live_kept.dSubset _ h
  weaken h := h

theorem live_moves : StepMoves State.Live State.Live where
  reader := live_reader
  before := live_kept
  behind := live_kept
  share {s} v h :=
    have ⟨_, hn, hl, hc⟩ := h.inv.fits.decoder
    have hd := h.inv.decoder s.dQ s.dSubset (s.fits_fit v) hn hl hc
    ⟨hd.reader true _ _ h.inv.readerOk.1 h.inv.readerOk.2 hd.fits.reader.1 hd.fits.reader.2, h.running⟩

/-- The state a decode job starts in, the fault cleared. -/
theorem tdStarted_live {s : State} (h : s.Live) : s.tdStarted.Live :=
  have hi := h.inv.brStart.outLen_zero
  have hd := hi.decoder 0 0 (s.fits_fit s.cfg.zx0InitialOffset) s.fits_zero s.fits_zero s.fits_zero
  have hm := hd.reader false 0 (s.jobCodec = .zx0 && s.optBackwards) rfl (absurd rfl) s.fits_zero s.fits_zero
  State.Live.dState ⟨hm, h.running⟩ (by decide)

/-! ### The bit writer -/

theorem backfill_live (a : Word) (bits : Byte) {s : State} (h : s.Live) :
    (backfill a bits s).EndsIn State.Live State.Live :=
  .ite (fun ha => ⟨h.inv.writeOut ha _, h.running⟩) fun _ => trivial

theorem backfill_if_live (b : Bool) (a : Word) (bits : Byte) {s : State} (h : s.Live) :
    (if b then backfill a bits s else .ok () s).EndsIn State.Live State.Live :=
  .ite (fun _ => backfill_live a bits h) fun _ => h

/-- An update of the writer's registers other than `out_len`. -/
theorem State.Live.writer {s : State} (h : s.Live) {i : Word} {m : Byte} (b : Bool) (hm : maskOk m = true)
    (hi : m ≠ 0 → i < s.cfg.outCap) (hif : s.fits i) :
    ({ s with wMask := m, wIndex := i, wBacktrack := b } : State).Live :=
  ⟨h.inv.writer b h.inv.outWritten.1 h.inv.outWritten.2 hm hi hif, h.running⟩

theorem writeOpenBit_live (b : Bool) {s : State} (h : s.Live) : (writeOpenBit b s).EndsIn State.Live State.Live :=
  (backfill_if_live b _ _ h).bind fun _ _ h =>
    h.writer _ (maskOk_shift h.inv.writerOk.1) (fun hz => h.inv.writerOk.2 (ne_zero_of_shift hz)) h.inv.fits.writer.2

theorem writeBit_live (b : Bool) {s : State} (h : s.Live) : (writeBit b s).EndsIn State.Live State.Live := by
  refine .ite (fun _ => ?_) fun _ => .ite (fun _ => ?_) fun _ => writeOpenBit_live b h
  · exact (backfill_if_live b _ _ h).bind fun _ _ h =>
      h.writer false h.inv.writerOk.1 h.inv.writerOk.2 h.inv.fits.writer.2
  · refine (putByte_live 0 h).bind_of_eq fun _ u hu h => writeOpenBit_live b ?_
    obtain ⟨hlt, happ⟩ := putByte_ok hu
    have hlen : u.outLen.toNat = s.outLen.toNat + 1 := happ.2.1
    have hcap : u.outLen ≤ u.cfg.outCap := h.inv.outWritten.1
    have hidx : u.outLen - 1 < u.cfg.outCap := by bv_omega
    exact h.writer _ rfl (fun _ => hidx) (State.fits_of_le_outCap (BitVec.le_of_lt hidx))

theorem writeAll_live (bits : List Bool) {s : State} (h : s.Live) : (writeAll bits s).EndsIn State.Live State.Live := by
  induction bits generalizing s with
  | nil => exact h
  | cons b bits ih => exact (writeBit_live b h).bind fun _ _ h => ih h

/-! ### The scanner -/

theorem inMode_live {body : State → Res State Fault (List Word)} (m : MsMode) {s : State} (h : s.Live)
    (hb : (body s).EndsIn State.Live State.Live) : (inMode m body s).EndsIn State.Live State.Live :=
  .ite (fun _ => hb) fun _ => h

/-- `MS_INIT` sizes its tables by `KEYS` and by a legal `MS_MAXOFF`. -/
theorem scanStart_inv {s : State} (h : s.Inv) (hc : s.scanConfigured = true) : s.scanStart.Inv := by
  have hoff : s.msMaxOff.toNat ≤ s.cfg.srcCap.toNat := by
    simp only [State.scanConfigured, decide_eq_true_eq] at hc
    obtain ⟨-, -, hle, -⟩ := hc
    exact hle
  refine h.scanner _ s.fits_zero ?_ (Table.within_void _) ?_ <;> split
  · exact Table.within_filled _ (Nat.le_refl _)
  · exact Table.within_void _
  · exact Table.within_filled _ (by omega)
  · exact Table.within_void _

theorem msInit_inv {s : State} (h : s.Inv) : (msInit s).EndsIn State.Inv State.Inv :=
  .ite (fun _ => h) fun hc => .ite (fun _ => h) fun _ => scanStart_inv h (by simpa using hc)

theorem msInsert_live (i : Word) {s : State} (h : s.Live) : (msInsert i s).EndsIn State.Live State.Live := by
  refine .ite (fun _ => h) fun hrange => .ite (fun _ => trivial) fun hcap => ⟨?_, h.running⟩
  have hlt : i < s.srcLen := by bv_omega
  have sp := h.inv.spaces
  exact h.inv.scanner _ (h.inv.fits_succ hlt) (sp.head.write (s.keyAt_lt _) _)
    (sp.prev.write (by bv_omega) _) sp.mlen

theorem msWalk_live (i : Word) {s : State} (h : s.Live) : (msWalk i s).EndsIn State.Live State.Live := by
  refine .ite (fun _ => h) fun _ => .ite (fun _ => trivial) fun _ => ?_
  split
  · trivial
  · exact h

theorem msLinear_live (i : Word) {s : State} (h : s.Live) : (msLinear i s).EndsIn State.Live State.Live := by
  refine .ite (fun _ => h) fun _ => ?_
  split
  · trivial
  · exact h

theorem stepRuns_within {p n off size : Nat} {s : State} (h : s.mlen.Within size) (hn : off + n ≤ size) :
    (State.stepRuns p n off s).mlen.Within size := by
  induction n generalizing off s with
  | zero => exact h
  | succ n ih => exact ih (h.write (by omega) _) (by omega)

theorem msStepRun_live {s : State} (h : s.Live) : (msStepRun s).EndsIn State.Live State.Live := by
  refine .ite (fun _ => h) fun hlen => .ite (fun _ => trivial) fun hcap => ?_
  have hlt : s.sPos < s.srcLen := by bv_omega
  have hoff : min s.msMaxOff.toNat s.sPos.toNat ≤ s.cfg.srcCap.toNat := by
    by_cases h1 : 1 ≤ min s.msMaxOff.toNat s.sPos.toNat
    · have hpos : s.sPos.toNat < s.cfg.srcCap.toNat := Nat.lt_of_not_le fun hle => hcap ⟨hle, h1⟩
      omega
    · omega
  have sp := h.inv.spaces
  rw [State.stepRuns_frame]
  exact ⟨h.inv.scanner _ (h.inv.fits_succ hlt) sp.head sp.prev
    (stepRuns_within sp.mlen (by omega)), h.running⟩

/-! ### Transactions -/

/-- The invariant holds of the next state, if there is one. -/
def KeepsInv (o : Host.Outcome State Fault Refusal) : Prop := ∀ t, o = .next t → t.Inv

theorem finish_keepsInv {r : Res State Fault (List Word)} (h : r.EndsIn State.Inv State.Inv) : KeepsInv (finish r) := by
  intro t ht
  cases r with
  | ok ws s => cases ht; exact State.Inv.answered h ws
  | raised k s => cases ht; exact (State.Inv.raise h k).answered []
  | stuck f => cases ht

theorem finish_ok_keepsInv {ws : List Word} {s : State} (h : s.Inv) : KeepsInv (finish (.ok ws s)) :=
  finish_keepsInv h

theorem operation_keepsInv {body : State → Res State Fault (List Word)} {s : State} (h : s.Inv)
    (hb : s.Live → (body s).EndsIn State.Live State.Live) : KeepsInv (operation body s) := by
  cases hf : s.fault with
  | true =>
    rw [operation_faulted hf]
    rintro t ⟨⟩
    exact h.answered []
  | false =>
    rw [operation_runs hf]
    exact finish_keepsInv ((hb ⟨h, hf⟩).mono (fun _ => State.Live.inv) fun _ => State.Live.inv)

theorem quiet_keepsInv {body : State → Res State Fault Unit} {s : State} (h : s.Inv)
    (hb : s.Live → (body s).EndsIn State.Live State.Live) : KeepsInv (operation (quiet body) s) :=
  operation_keepsInv h fun hl => (hb hl).bind fun _ _ hs => hs

/-- An unspecified result changes the count of such results alone. -/
theorem unspecified_inv {s : State} (h : s.Inv) : (unspecified s).EndsIn State.Inv State.Inv := h.draws _

theorem execMlenRead_keepsInv (offset : Word) {s : State} (h : s.Inv) : KeepsInv (execMlenRead offset s) := by
  refine finish_keepsInv ?_
  split
  · exact .ite (fun _ => h) fun _ => unspecified_inv h
  · exact unspecified_inv h

theorem tdStart_inv {s : State} (h : s.Inv) : (tdStart s).EndsIn State.Inv State.Inv :=
  have ht := (tdStarted_live ⟨h.clearFault, s.clearFault_fault⟩).inv
  .ite (fun _ => ht) fun _ => ht

theorem token_keepsInv {i : Instr} (hi : i.isCommand = false) {s : State} (h : s.Inv) : KeepsInv (exec i s) := by
  have hrun : ∀ {s : State}, s.Live → (runToken i s).EndsIn State.Live State.Live := live_moves.runToken i
  obtain he | he := exec_token hi s <;> rw [he]
  · exact quiet_keepsInv h fun hl => live_moves.counted (hrun hl)
  · exact quiet_keepsInv h hrun

/-- A reader whose result is made into words. -/
theorem map_keepsInv {α : Type} {r : State → Res State Fault α} {f : α → List Word} {s : State} (h : s.Inv)
    (hr : s.Live → (r s).EndsIn State.Live State.Live) : KeepsInv (operation (fun s => (r s).map f) s) :=
  operation_keepsInv h fun hl => (hr hl).map f

theorem execReadBits_keepsInv (size : Word) {s : State} (h : s.Inv) : KeepsInv (execReadBits size s) := by
  refine operation_keepsInv h fun hl => ?_
  exact .ite (fun _ => hl) fun _ => (live_reader.readField size.toNat hl).map _

theorem execIgRead_keepsInv (sentinel flags : Word) {s : State} (h : s.Inv) :
    KeepsInv (execIgRead sentinel flags s) :=
  map_keepsInv h fun hl => live_reader.igReadCode _ _ _ _ hl

theorem execGammaBits_keepsInv (value : Word) {s : State} (h : s.Inv) : KeepsInv (execGammaBits value s) := by
  refine operation_keepsInv h fun hl => ?_
  exact .ite (fun _ => hl) fun _ => hl

/-- R22, R23, R41, R60, R407: no instruction leaves the invariant. -/
theorem exec_keepsInv (i : Instr) {s : State} (h : s.Inv) : KeepsInv (exec i s) := by
  cases i with
  | reset =>
    intro t ht
    rw [exec_reset] at ht
    cases ht
    exact State.cleared_inv _
  | regRead reg => exact finish_ok_keepsInv h
  | regWrite reg value => exact finish_ok_keepsInv (h.setReg reg value)
  | abort => exact finish_ok_keepsInv h.aborted
  | srcWrite index value => exact finish_keepsInv (.ite (fun hi => h.writeSrc hi _) fun _ => trivial)
  | outRead index => exact finish_keepsInv (.ite (fun _ => h) fun _ => unspecified_inv h)
  | mlenRead offset => exact execMlenRead_keepsInv offset h
  | bwInit => exact finish_ok_keepsInv h.clearFault.bwStart
  | brInit => exact finish_ok_keepsInv h.clearFault.brStart
  | writeBit v => exact quiet_keepsInv h (writeBit_live _)
  | writeByte v => exact quiet_keepsInv h (putByte_live _)
  | writeBits value size =>
    exact quiet_keepsInv h fun hl => .ite (fun _ => hl) fun _ => writeAll_live _ hl
  | wSetBacktrack =>
    exact quiet_keepsInv h fun hl => .ite (fun _ => hl) fun _ =>
      hl.writer true hl.inv.writerOk.1 hl.inv.writerOk.2 hl.inv.fits.writer.2
  | flush => exact quiet_keepsInv h id
  | readBit => exact map_keepsInv h fun hl => readBit_live hl
  | readByte => exact map_keepsInv h fun hl => readByte_live hl
  | readBits size => exact execReadBits_keepsInv size h
  | rSetBacktrack =>
    exact quiet_keepsInv h fun hl => ⟨hl.inv.reader true _ _ hl.inv.readerOk.1 hl.inv.readerOk.2
      hl.inv.fits.reader.1 hl.inv.fits.reader.2, hl.running⟩
  | egWrite value | igWrite value flags | bbgWrite value =>
    exact quiet_keepsInv h fun hl => .ite (fun _ => hl) fun _ => writeAll_live _ hl
  | egRead limit => exact map_keepsInv h fun hl => live_reader.egReadCode s.cfg limit.toNat hl
  | igRead sentinel flags => exact execIgRead_keepsInv sentinel flags h
  | bbgRead => exact map_keepsInv h fun hl => live_reader.bbgReadCode s.cfg hl
  | gammaBits value => exact execGammaBits_keepsInv value h
  | msInit => exact finish_keepsInv (msInit_inv h.clearFault)
  | msInsert i => exact operation_keepsInv h fun hl => inMode_live .chain hl (msInsert_live i hl)
  | msWalk i => exact operation_keepsInv h fun hl => inMode_live .chain hl (msWalk_live i hl)
  | msLinear i => exact operation_keepsInv h fun hl => inMode_live .linear hl (msLinear_live i hl)
  | msStepRun => exact operation_keepsInv h fun hl => inMode_live .run hl (msStepRun_live hl)
  | tdStart => exact finish_keepsInv (tdStart_inv h)
  | tdStep => exact quiet_keepsInv h live_moves.tdStep
  | tdRun => exact quiet_keepsInv h live_moves.tdRun
  | _ => exact token_keepsInv rfl h

/-- A command outside the table raises, and any other is its instruction. -/
theorem transact_keepsInv (c : Command) {s : State} (h : s.Inv) : KeepsInv (transact c s) := by
  unfold transact
  cases decodeCommand c with
  | ok i => exact exec_keepsInv i h
  | error k => exact operation_keepsInv h id

/-- Settles O58: a step is a transaction on a state that differs in the pending commands alone (`exec_keepsInv`). -/
theorem invariantIsKept : Obligations.InvariantIsKept := by
  intro s t h ht
  unfold step at ht
  split at ht
  · cases ht; exact h
  · exact transact_keepsInv _ (h.cmds _) t ht

end Sys2Proof.Machine
end
